-- ==== Sys2Proof/Word.lean ====
section
/-!
DEFINITION. The word types of the machine and its plainest arithmetic.
-/

namespace Sys2Proof

/-- A byte: a general register, a timer, a cell of `MEM` (00_scope R6). -/
abbrev Byte := BitVec 8

/-- A 16-bit word: what holds `PC` and `I`, 16 bits wide by default (00_scope R7; logs 3, 4), an instruction word (R70),
and the key snapshot (10_state R27). -/
abbrev Word := BitVec 16

/-- A 4-bit nibble: the index of a general register, a key or a sprite's height (30_encoding R71, R72). -/
abbrev Nibble := BitVec 4

/-- A 12-bit absolute address, the field `nnn` (30_encoding R72). -/
abbrev Addr12 := BitVec 12

/-- One row of the display buffer: 64 pixels, column `c` at bit `63 - c` (44_display R172). -/
abbrev Row := BitVec 64

end Sys2Proof
end

