-- ==== Sys2Proof/Config.lean ====
section
/-!
DEFINITION. What an implementation fixes: the constants of 00_scope R6, the parameters of R7 as a structure of plain
data, and the free values of the machine's inputs.
-/

namespace Sys2Proof

/-- `SUBN_VF` (00_scope R7, 42_alu R140): whether `8xy7` writes `VF`. -/
inductive SubnVf where
  /-- `VF` is not written by `8xy7`: the default. -/
  | unchanged
  /-- `VF` becomes 1 iff `Vy` is at least `Vx`. -/
  | notBorrow
deriving DecidableEq, Repr, Inhabited

/-- `FLAG_ORDER_X15` (00_scope R7, 42_alu R137): which of the two writes comes last where `Vx` is `VF`. -/
inductive FlagOrder where
  /-- Result first, flag last: the default. -/
  | flagLast
  /-- Flag first, result last. -/
  | resultLast
deriving DecidableEq, Repr, Inhabited

/-- `RESERVED_EF` (00_scope R7, 30_encoding R79): what an undefined class-E or class-F word does. -/
inductive ReservedEF where
  /-- It raises `UnsupportedOpcode`: the default. -/
  | fault
  /-- It does nothing beyond the fetch. -/
  | nop
deriving DecidableEq, Repr, Inhabited

/-- `KEY_INDEX_OOR` (00_scope R7, 45_timers_keypad R183): what a key index above 15 does. -/
inductive KeyIndexOor where
  /-- It raises `OutOfBoundsAccess`: the default. -/
  | fault
  /-- The index is taken modulo 16. -/
  | mask4
deriving DecidableEq, Repr, Inhabited

/-- The parameters of 00_scope R7. Plain data, held in `State.cfg` and written by no step. -/
structure Config where
  /-- `PC_WIDTH`: every sum that goes to `PC`, and so every entry of the stack, is reduced modulo two to this power
  (10_state R23, R25). The field `State.pc` has 16 bits, which hold every `PC` of a run at any width (log 3). -/
  pcWidth : Nat
  /-- `STACK_DEPTH`: how many return addresses the stack holds (10_state R25). -/
  stackDepth : Nat
  /-- `I_WIDTH`: `Fx1E` reduces modulo two to this power (43_index_memory R151). The document names the range
  12 to 16 (10_state R24); the field `State.i` has 16 bits (log 4). -/
  iWidth : Nat
  /-- `FONT`: the 80 bytes that `Load` puts at addresses 0 to 79 (20_memory R52, R53). -/
  font : Vector Byte 80
  /-- `SUBN_VF`. -/
  subnVf : SubnVf
  /-- `FLAG_ORDER_X15`. -/
  flagOrder : FlagOrder
  /-- `RESERVED_EF`. -/
  reservedEf : ReservedEF
  /-- `KEY_INDEX_OOR`. -/
  keyIndexOor : KeyIndexOor
deriving DecidableEq, Repr

/-- What a configuration must satisfy: `PC_WIDTH` holds 4350, the largest value `PC` can take (10_state R23,
92_eei_decisions D3), and `I_WIDTH` lies in the range the document names, "effectively 12–16 bits of range as used"
(R24). Every other field is free. -/
abbrev Config.Valid (c : Config) : Prop := 13 ≤ c.pcWidth ∧ 12 ≤ c.iWidth ∧ c.iWidth ≤ 16

/-- `MEM_SIZE` (00_scope R6). -/
abbrev Config.memSize : Nat := 4096

/-- `FONT_SIZE` (00_scope R6). -/
abbrev Config.fontSize : Nat := 80

/-- `PROG_BASE`, the load address and the reset value of `PC` (00_scope R6). -/
abbrev Config.progBase : Nat := 512

/-- `PROG_MAX`, the longest image `Load` takes (00_scope R6). -/
abbrev Config.progMax : Nat := 3584

/-- `FLAG_REG`, the index of `VF` (00_scope R6). -/
abbrev Config.flagReg : Nibble := 15#4

/-- `FB_ROWS` (00_scope R6). -/
abbrev Config.fbRows : Nat := 32

/-- What the host's ports show at one step: the key snapshot and the random byte (00_scope R10). -/
structure StepInput where
  /-- `keys_in`: bit `i` is 1 when key `i` is down (10_state R27). -/
  keys : Word
  /-- `rnd_in`: the byte `Cxkk` takes (42_alu R142). -/
  rnd : Byte
deriving DecidableEq, Repr, Inhabited

/-- FREE VALUE: the sample the ports show at the `n`-th sampling step for which the host has lined up none in
`State.inputs`. It has no body, so no proof can learn it: the key snapshot is the outside world's, and the random byte is
"a free 8-bit draw per `Cxkk`, under no law" (92_eei_decisions D17, log 7). -/
opaque Config.freeInput : Nat → StepInput

end Sys2Proof
end

