-- ==== Sys2Proof/Syntax.lean ====
section
/-!
DEFINITION. The instructions: one constructor per row of spec/opcode_table.json (30_encoding R74, R78, R79), with every
field of the row's encoding as an operand, the ignored ones too.
-/

namespace Sys2Proof

/-- The instruction set of `CHIP8-HI` (30_encoding R74) and its three reserved rows (R78, R79). Operands are the fields of
00_scope R13: `x`, `y` register indices, `kk` a byte constant, `nnn` an address, `n` a nibble. -/
inductive Instr where
  /-- `00E0` clear the display. -/
  | cls
  /-- `00EE` return from subroutine. -/
  | ret
  /-- `0nnn` raw jump. -/
  | jp0 (nnn : Addr12)
  /-- `1nnn` jump; to itself it sets the stop flag. -/
  | jp (nnn : Addr12)
  /-- `2nnn` call subroutine. -/
  | call (nnn : Addr12)
  /-- `3xkk` skip if equal to constant. -/
  | seImm (x : Nibble) (kk : Byte)
  /-- `4xkk` skip if not equal to constant. -/
  | sneImm (x : Nibble) (kk : Byte)
  /-- `5xyN` skip if registers equal; the fourth nibble `n` is ignored (R76). -/
  | seReg (x y n : Nibble)
  /-- `6xkk` load constant. -/
  | ldImm (x : Nibble) (kk : Byte)
  /-- `7xkk` add constant. -/
  | addImm (x : Nibble) (kk : Byte)
  /-- `8xy0` copy register. -/
  | ldReg (x y : Nibble)
  /-- `8xy1` bitwise or. -/
  | or (x y : Nibble)
  /-- `8xy2` bitwise and. -/
  | and (x y : Nibble)
  /-- `8xy3` bitwise exclusive or. -/
  | xor (x y : Nibble)
  /-- `8xy4` add with carry out. -/
  | addReg (x y : Nibble)
  /-- `8xy5` subtract with no-borrow out. -/
  | sub (x y : Nibble)
  /-- `8xy6` shift right by one; `y` is ignored. -/
  | shr (x y : Nibble)
  /-- `8xy7` reverse subtract. -/
  | subn (x y : Nibble)
  /-- `8xyE` shift left by one; `y` is ignored. -/
  | shl (x y : Nibble)
  /-- `9xyN` skip if registers differ; the fourth nibble `n` is ignored (R76). -/
  | sneReg (x y n : Nibble)
  /-- `Annn` load the address register. -/
  | ldI (nnn : Addr12)
  /-- `Bnnn` jump with offset `V0`. -/
  | jpV0 (nnn : Addr12)
  /-- `Cxkk` masked random byte. -/
  | rnd (x : Nibble) (kk : Byte)
  /-- `Dxyn` draw a sprite of `n` rows. -/
  | drw (x y n : Nibble)
  /-- `Ex9E` skip if key pressed. -/
  | skp (x : Nibble)
  /-- `ExA1` skip if key not pressed. -/
  | sknp (x : Nibble)
  /-- `Fx07` read the delay timer. -/
  | ldVxDt (x : Nibble)
  /-- `Fx0A` wait for a key. -/
  | ldVxK (x : Nibble)
  /-- `Fx15` set the delay timer. -/
  | ldDtVx (x : Nibble)
  /-- `Fx18` set the sound timer. -/
  | ldStVx (x : Nibble)
  /-- `Fx1E` add to the address register. -/
  | addI (x : Nibble)
  /-- `Fx29` point `I` at a font glyph. -/
  | ldF (x : Nibble)
  /-- `Fx33` store binary-coded decimal. -/
  | ldB (x : Nibble)
  /-- `Fx55` store registers `V0` to `Vx`. -/
  | ldMemVx (x : Nibble)
  /-- `Fx65` load registers `V0` to `Vx`. -/
  | ldVxMem (x : Nibble)
  /-- `8xyN`, N one of 8, 9, A, B, C, D, F: illegal (R78). -/
  | reserved8 (x y n : Nibble)
  /-- `Exkk`, kk neither 9E nor A1: reserved (R79). -/
  | reservedE (x : Nibble) (kk : Byte)
  /-- `Fxkk`, kk none of the nine defined: reserved (R79). -/
  | reservedF (x : Nibble) (kk : Byte)
deriving DecidableEq, Repr

end Sys2Proof
end

