-- ==== Sys2Proof/WellFormed.lean ====
section
/-!
DEFINITION. Which terms of `Instr` stand for a word: the four rows of the opcode table that another row takes precedence
over (30_encoding R73) do not hold the words of that row. Every other operand is as wide as its field and needs no check.
-/

namespace Sys2Proof

/-- The low bytes that class F defines (30_encoding R79). -/
def definedF : List Byte := [0x07, 0x0A, 0x15, 0x18, 0x1E, 0x29, 0x33, 0x55, 0x65]

/-- The low bytes that class E defines (30_encoding R79). -/
def definedE : List Byte := [0x9E, 0xA1]

/-- The fourth nibbles that class 8 defines (30_encoding R77). -/
def defined8 : List Nibble := [0x0, 0x1, 0x2, 0x3, 0x4, 0x5, 0x6, 0x7, 0xE]

/-- The instruction stands for a word: a raw jump is neither `00E0` nor `00EE` (30_encoding R75), and a reserved row holds
none of its class's defined sub-opcodes (R78, R79). -/
def Instr.wellFormed : Instr → Bool
  | .jp0 nnn => nnn != 0x0E0#12 && nnn != 0x0EE#12
  | .reserved8 _ _ n => !defined8.contains n
  | .reservedE _ kk => !definedE.contains kk
  | .reservedF _ kk => !definedF.contains kk
  | .cls | .ret | .jp _ | .call _ | .seImm _ _ | .sneImm _ _ | .seReg _ _ _ | .ldImm _ _ | .addImm _ _
  | .ldReg _ _ | .or _ _ | .and _ _ | .xor _ _ | .addReg _ _ | .sub _ _ | .shr _ _ | .subn _ _ | .shl _ _
  | .sneReg _ _ _ | .ldI _ | .jpV0 _ | .rnd _ _ | .drw _ _ _ | .skp _ | .sknp _ | .ldVxDt _ | .ldVxK _
  | .ldDtVx _ | .ldStVx _ | .addI _ | .ldF _ | .ldB _ | .ldMemVx _ | .ldVxMem _ => true

end Sys2Proof
end

