-- ==== Sys2Proof/Decode.lean ====
section
/-!
DEFINITION. The decoder, total on 16-bit words (30_encoding R73) and rejecting a short byte list by name, and the encoder
written from the same table (R74).
-/

namespace Sys2Proof

/-- The class nibble `c` of an instruction word (00_scope R13). -/
def fieldC (w : Word) : Nibble := w.extractLsb' 12 4

/-- The field `x` (00_scope R13). -/
def fieldX (w : Word) : Nibble := w.extractLsb' 8 4

/-- The field `y` (00_scope R13). -/
def fieldY (w : Word) : Nibble := w.extractLsb' 4 4

/-- The field `n` (00_scope R13). -/
def fieldN (w : Word) : Nibble := w.extractLsb' 0 4

/-- The field `kk` (00_scope R13). -/
def fieldKK (w : Word) : Byte := w.extractLsb' 0 8

/-- The field `nnn` (00_scope R13). -/
def fieldNNN (w : Word) : Addr12 := w.extractLsb' 0 12

/-- Class 0: the two fixed words, else the raw jump (30_encoding R75). -/
def decodeClass0 (nnn : Addr12) : Instr :=
  if nnn = 0x0E0#12 then .cls
  else if nnn = 0x0EE#12 then .ret
  else .jp0 nnn

/-- Class 8: selected by the fourth nibble (30_encoding R77, R78). -/
def decodeClass8 (x y n : Nibble) : Instr :=
  if n = 0x0#4 then .ldReg x y
  else if n = 0x1#4 then .or x y
  else if n = 0x2#4 then .and x y
  else if n = 0x3#4 then .xor x y
  else if n = 0x4#4 then .addReg x y
  else if n = 0x5#4 then .sub x y
  else if n = 0x6#4 then .shr x y
  else if n = 0x7#4 then .subn x y
  else if n = 0xE#4 then .shl x y
  else .reserved8 x y n

/-- Class E: selected by the low byte (30_encoding R74, R79). -/
def decodeClassE (x : Nibble) (kk : Byte) : Instr :=
  if kk = 0x9E#8 then .skp x
  else if kk = 0xA1#8 then .sknp x
  else .reservedE x kk

/-- Class F: selected by the low byte (30_encoding R74, R79). -/
def decodeClassF (x : Nibble) (kk : Byte) : Instr :=
  if kk = 0x07#8 then .ldVxDt x
  else if kk = 0x0A#8 then .ldVxK x
  else if kk = 0x15#8 then .ldDtVx x
  else if kk = 0x18#8 then .ldStVx x
  else if kk = 0x1E#8 then .addI x
  else if kk = 0x29#8 then .ldF x
  else if kk = 0x33#8 then .ldB x
  else if kk = 0x55#8 then .ldMemVx x
  else if kk = 0x65#8 then .ldVxMem x
  else .reservedF x kk

/-- The instruction of a word, by its class nibble first (30_encoding R73): total, since every word is one of the 35
instructions or one of the reserved rows (R80). -/
def decodeWord (w : Word) : Instr :=
  match (fieldC w).toNat with
  | 0 => decodeClass0 (fieldNNN w)
  | 1 => .jp (fieldNNN w)
  | 2 => .call (fieldNNN w)
  | 3 => .seImm (fieldX w) (fieldKK w)
  | 4 => .sneImm (fieldX w) (fieldKK w)
  | 5 => .seReg (fieldX w) (fieldY w) (fieldN w)
  | 6 => .ldImm (fieldX w) (fieldKK w)
  | 7 => .addImm (fieldX w) (fieldKK w)
  | 8 => decodeClass8 (fieldX w) (fieldY w) (fieldN w)
  | 9 => .sneReg (fieldX w) (fieldY w) (fieldN w)
  | 10 => .ldI (fieldNNN w)
  | 11 => .jpV0 (fieldNNN w)
  | 12 => .rnd (fieldX w) (fieldKK w)
  | 13 => .drw (fieldX w) (fieldY w) (fieldN w)
  | 14 => decodeClassE (fieldX w) (fieldKK w)
  | _ => decodeClassF (fieldX w) (fieldKK w)

/-- The word of two consecutive bytes, big-endian (20_memory R54). -/
def wordOfBytes (hi lo : Byte) : Word := hi ++ lo

/-- The high byte of a word, stored at the lower address (20_memory R54). -/
def hiByte (w : Word) : Byte := w.extractLsb' 8 8

/-- The low byte of a word, stored at the higher address (20_memory R54). -/
def loByte (w : Word) : Byte := w.extractLsb' 0 8

/-- Why a byte list is not decoded. -/
inductive DecodeError where
  /-- Fewer than the two bytes every instruction has (30_encoding R70). Raised by `decode`; safe. -/
  | truncated
deriving DecidableEq, Repr

/-- Decoding of a byte list: the instruction of its first two bytes and the rest (30_encoding R70, R81). -/
def decode : List Byte → Except DecodeError (Instr × List Byte)
  | hi :: lo :: rest => .ok (decodeWord (wordOfBytes hi lo), rest)
  | [_] => .error .truncated
  | [] => .error .truncated

/-- Format `NNN` (30_encoding R71). -/
def encNNN (c : Nibble) (nnn : Addr12) : Word := c ++ nnn

/-- Formats `XKK` and `X` (30_encoding R71). -/
def encXKK (c x : Nibble) (kk : Byte) : Word := (c ++ x) ++ kk

/-- Formats `XY` and `XYN` (30_encoding R71). -/
def encXYN (c x y n : Nibble) : Word := (c ++ x) ++ (y ++ n)

/-- The word of an instruction (30_encoding R74, the columns `pattern` and `match`). -/
def encode : Instr → Word
  | .cls => 0x00E0#16
  | .ret => 0x00EE#16
  | .jp0 nnn => encNNN 0x0 nnn
  | .jp nnn => encNNN 0x1 nnn
  | .call nnn => encNNN 0x2 nnn
  | .seImm x kk => encXKK 0x3 x kk
  | .sneImm x kk => encXKK 0x4 x kk
  | .seReg x y n => encXYN 0x5 x y n
  | .ldImm x kk => encXKK 0x6 x kk
  | .addImm x kk => encXKK 0x7 x kk
  | .ldReg x y => encXYN 0x8 x y 0x0
  | .or x y => encXYN 0x8 x y 0x1
  | .and x y => encXYN 0x8 x y 0x2
  | .xor x y => encXYN 0x8 x y 0x3
  | .addReg x y => encXYN 0x8 x y 0x4
  | .sub x y => encXYN 0x8 x y 0x5
  | .shr x y => encXYN 0x8 x y 0x6
  | .subn x y => encXYN 0x8 x y 0x7
  | .shl x y => encXYN 0x8 x y 0xE
  | .sneReg x y n => encXYN 0x9 x y n
  | .ldI nnn => encNNN 0xA nnn
  | .jpV0 nnn => encNNN 0xB nnn
  | .rnd x kk => encXKK 0xC x kk
  | .drw x y n => encXYN 0xD x y n
  | .skp x => encXKK 0xE x 0x9E
  | .sknp x => encXKK 0xE x 0xA1
  | .ldVxDt x => encXKK 0xF x 0x07
  | .ldVxK x => encXKK 0xF x 0x0A
  | .ldDtVx x => encXKK 0xF x 0x15
  | .ldStVx x => encXKK 0xF x 0x18
  | .addI x => encXKK 0xF x 0x1E
  | .ldF x => encXKK 0xF x 0x29
  | .ldB x => encXKK 0xF x 0x33
  | .ldMemVx x => encXKK 0xF x 0x55
  | .ldVxMem x => encXKK 0xF x 0x65
  | .reserved8 x y n => encXYN 0x8 x y n
  | .reservedE x kk => encXKK 0xE x kk
  | .reservedF x kk => encXKK 0xF x kk

/-- The two bytes of an instruction as memory holds them, the high byte first (20_memory R54). -/
def encodeBytes (i : Instr) : List Byte := [hiByte (encode i), loByte (encode i)]

/-- The word that an opcode-table row's bits make: the low `nbits` bits of `w`, every bit above them 0. -/
def tableWord (nbits w : Nat) : Word := BitVec.ofNat 16 (w % 2 ^ nbits)

/-- The instruction the decoder reads from the bits `w` of an opcode-table row `nbits` wide, the two bytes laid out as
memory holds them. -/
def decodeTableWord (nbits w : Nat) : Option Instr :=
  match decode [hiByte (tableWord nbits w), loByte (tableWord nbits w)] with
  | .ok (i, _) => some i
  | .error _ => none

end Sys2Proof
end

