-- ==== Sys2Proof/Machine/Params.lean ====
section
/-!
DEFINITION. The default values of the parameters (00_scope R7) and what a byte of `MEM` holds after `Load` (10_state R36).
-/

namespace Sys2Proof.Machine

/-- The table of 20_memory R53, the default of `FONT`. PRESUMED: the spec takes it from general knowledge (D8, log 6). -/
def defaultFont : Vector Byte 80 :=
  #v[0xF0, 0x90, 0x90, 0x90, 0xF0,
     0x20, 0x60, 0x20, 0x20, 0x70,
     0xF0, 0x10, 0xF0, 0x80, 0xF0,
     0xF0, 0x10, 0xF0, 0x10, 0xF0,
     0x90, 0x90, 0xF0, 0x10, 0x10,
     0xF0, 0x80, 0xF0, 0x10, 0xF0,
     0xF0, 0x80, 0xF0, 0x90, 0xF0,
     0xF0, 0x10, 0x20, 0x40, 0x40,
     0xF0, 0x90, 0xF0, 0x90, 0xF0,
     0xF0, 0x90, 0xF0, 0x10, 0xF0,
     0xF0, 0x90, 0xF0, 0x90, 0x90,
     0xE0, 0x90, 0xE0, 0x90, 0xE0,
     0xF0, 0x80, 0x80, 0x80, 0xF0,
     0xE0, 0x90, 0x90, 0x90, 0xE0,
     0xF0, 0x80, 0xF0, 0x80, 0xF0,
     0xF0, 0x80, 0xF0, 0x80, 0x80]

/-- Every parameter at the default of 00_scope R7. DESIGN CHOICE of the spec for each (92_eei_decisions D3, D4, D6, D8, D9,
D10, D12, D14; log 2). -/
def defaultConfig : Config where
  pcWidth := 16
  stackDepth := 16
  iWidth := 16
  font := defaultFont
  subnVf := .unchanged
  flagOrder := .flagLast
  reservedEf := .fault
  keyIndexOor := .fault

/-- What address `a` of `MEM` holds after `Load` of an empty image (20_memory R51, 10_state R36): the font at 0 to 79 and
zero elsewhere. It is also what an address that `State.mem` does not list reads as. -/
def initByte (c : Config) (a : Nat) : Byte :=
  if h : a < Config.fontSize then c.font[a] else 0#8

end Sys2Proof.Machine
end

