-- ==== Sys2Proof/Machine/State.lean ====
section
/-!
DEFINITION. The state of the machine as plain data (10_state R20), the outcomes' reasons, and the state after reset (R36).
-/

namespace Sys2Proof.Machine

/-- The fault codes of 60_exceptions R201 other than `None`. A fault of the spec is no stop of the model: it is latched in
`State.fault` and the step answers a next state (R203, log 1). -/
inductive FaultCode where
  /-- Code 1: a memory access, a fetch or a key index out of range (R202). -/
  | outOfBoundsAccess
  /-- Code 2: a reserved word (R202). -/
  | unsupportedOpcode
  /-- Code 3: `00EE` with an empty stack (R202). -/
  | stackUnderflow
  /-- Code 4: `2nnn` with a full stack (R202). -/
  | stackOverflow
deriving DecidableEq, Repr

/-- `MEM` (10_state R31): the bytes that differ from what `Load` of an empty image leaves (`initByte`), by strictly rising
address. -/
abbrev Memory := List Host.Cell

/-- The machine's state. The fields up to `fb` are the spec's (10_state R20); `contin` and `drawStrobe` are its output
ports (00_scope R10); the rest are the model's own (logs 2, 7, 8). -/
structure State where
  /-- The parameters of 00_scope R7: written by no step. -/
  cfg : Config
  /-- `V[0..15]` (R21); `V[15]` is `VF` (R22). -/
  v : Vector Byte 16
  /-- `PC` (R23). -/
  pc : Word
  /-- `I` (R24). -/
  i : Word
  /-- `STACK[0..SP-1]`, the oldest first; `SP` is its length, "the number of entries held" (R25, log 5). -/
  stack : List Word
  /-- `DT`, the delay timer (R26). -/
  dt : Byte
  /-- `ST`, the sound timer (R26). -/
  st : Byte
  /-- `KEYS` (R27). -/
  keys : Word
  /-- `KW_PENDING` (R28). -/
  kwPending : Bool
  /-- `KW_TARGET` (R28). -/
  kwTarget : Nibble
  /-- `STOP` (R29). -/
  stop : Bool
  /-- `FAULT` (R30). -/
  fault : Option FaultCode
  /-- `MEM` (R31). -/
  mem : Memory
  /-- `FB` (R32). -/
  fb : Vector Row 32
  /-- The output `continue` of the last step (00_scope R10, 40_step_cycle R98). -/
  contin : Bool
  /-- The output `draw_strobe` of the last step (00_scope R10, 40_step_cycle R101). -/
  drawStrobe : Bool
  /-- The byte on port `rnd_in` that the step in progress sampled (00_scope R10). -/
  rndIn : Byte
  /-- What the host will show on its ports at the coming steps, the next first (log 7). -/
  inputs : List StepInput
  /-- How many samples have been taken: the argument of the free value (log 7). -/
  inputCount : Nat
deriving DecidableEq, Repr

/-- Reasons for which a step stops the machine: none. Every fault of the spec is a state of the machine (`FaultCode`,
60_exceptions R203, R204), so nothing raises one of these (log 1). -/
inductive Fault where
deriving DecidableEq, Repr

/-- Reasons for a refusal. -/
inductive Refusal where
  /-- An instruction without a meaning. Raised by `exec`'s arms only; this model has no such arm. Safe. -/
  | notModelled (mnemonic : String)
  /-- `RomLoadError`: `Load` of an image longer than 3584 bytes (70_reset_and_hazards R231). Raised by `State.load`, an
  event of the host and no instruction. Safe: the spec refuses it too. -/
  | romLoadError
deriving DecidableEq, Repr

/-- What an instruction or a step answers. -/
abbrev Result := Host.Outcome State Fault Refusal

/-- The state after `Load` of an empty image under the configuration `c` (10_state R36, 70_reset_and_hazards R230). The
two output ports have no value before the first step: DESIGN CHOICE 0 (log 9). -/
def State.init (c : Config) : State where
  cfg := c
  v := Vector.replicate 16 0#8
  pc := 512#16
  i := 0#16
  stack := []
  dt := 0#8
  st := 0#8
  keys := 0#16
  kwPending := false
  kwTarget := 0#4
  stop := false
  fault := none
  mem := []
  fb := Vector.replicate 32 0#64
  contin := false
  drawStrobe := false
  rndIn := 0#8
  inputs := []
  inputCount := 0

/-- The machine right after reset: `Load` of the empty image, every parameter at its default (logs 2, 11). -/
def State.reset : State := State.init defaultConfig

end Sys2Proof.Machine
end

