-- ==== Sys2Proof/Machine/Ops.lean ====
section
/-!
DEFINITION. The named operations over memory, registers, stack, timers, keypad and display that the meanings and the step
share, raising a fault among them (60_exceptions R203), and the host's events `Load` and `RequestStop`.
-/

namespace Sys2Proof.Machine

/-! ## Memory (20_memory R55, R59) -/

/-- The byte that `m` lists at `a`, if it lists one. -/
def Memory.lookup : Memory → Nat → Option Byte
  | [], _ => none
  | (k, b) :: m, a => if k = a then some b else Memory.lookup m a

/-- `m` with `b` listed at `a`, kept in rising order. -/
def Memory.insert : Memory → Nat → Byte → Memory
  | [], a, b => [(a, b)]
  | (k, c) :: m, a, b =>
    if a < k then (a, b) :: (k, c) :: m
    else if a = k then (a, b) :: m
    else (k, c) :: Memory.insert m a b

/-- `m` with nothing listed at `a`. -/
def Memory.erase : Memory → Nat → Memory
  | [], _ => []
  | (k, c) :: m, a => if k = a then Memory.erase m a else (k, c) :: Memory.erase m a

/-- The byte at address `a`: the one listed, else what `Load` left there (20_memory R59). -/
def Memory.read (c : Config) (m : Memory) (a : Nat) : Byte := (Memory.lookup m a).getD (initByte c a)

/-- Storing `b` at `a`. Storing what an unlisted address reads as lists nothing, so that equal memories are equal data. -/
def Memory.write (c : Config) (m : Memory) (a : Nat) (b : Byte) : Memory :=
  if b = initByte c a then Memory.erase m a else Memory.insert m a b

/-- The canonical form from address `lo` on: addresses strictly rising and inside `MEM`, no entry equal to what an unlisted
address reads as. -/
def Memory.wfFrom (c : Config) : Nat → Memory → Bool
  | _, [] => true
  | lo, (k, b) :: m => decide (lo ≤ k) && decide (k < Config.memSize) && b != initByte c k && Memory.wfFrom c (k + 1) m

/-- The canonical form of memory. -/
def Memory.wf (c : Config) (m : Memory) : Bool := Memory.wfFrom c 0 m

/-- The bytes `bs` stored from address `a` on, ascending. -/
def Memory.storeImage (c : Config) : List Byte → Nat → Memory → Memory
  | [], _, m => m
  | b :: bs, a, m => Memory.storeImage c bs (a + 1) (Memory.write c m a b)

/-- `MEM[a]`. -/
def State.readMem (s : State) (a : Nat) : Byte := Memory.read s.cfg s.mem a

/-- `MEM[a] <- b`, the bounds already tested. -/
def State.writeMem (s : State) (a : Nat) (b : Byte) : State := { s with mem := Memory.write s.cfg s.mem a b }

/-! ## Registers -/

/-- `V[r]` (10_state R21). -/
def State.getV (s : State) (r : Nibble) : Byte := s.v[r.toNat]'r.isLt

/-- `V[r] <- b` (10_state R21). -/
def State.setV (s : State) (r : Nibble) (b : Byte) : State := { s with v := s.v.set r.toNat b r.isLt }

/-- The value that a sum leaves in `PC`: reduced modulo two to the power `PC_WIDTH` (00_scope R7, 10_state R23), which
changes nothing in a run (log 14). -/
def Config.pcValue (c : Config) (n : Nat) : Word := BitVec.ofNat 16 (n % 2 ^ c.pcWidth)

/-- `PC + 2`. -/
def State.pcPlus2 (s : State) : Word := Config.pcValue s.cfg (s.pc.toNat + 2)

/-- `PC <- w`. -/
def State.setPc (s : State) (w : Word) : State := { s with pc := w }

/-- `I <- w`. -/
def State.setI (s : State) (w : Word) : State := { s with i := w }

/-- `DT <- b`. -/
def State.setDt (s : State) (b : Byte) : State := { s with dt := b }

/-- `ST <- b`. -/
def State.setSt (s : State) (b : Byte) : State := { s with st := b }

/-- `FB <- f`. -/
def State.setFb (s : State) (f : Vector Row 32) : State := { s with fb := f }

/-- `STOP <- 1` (10_state R29). -/
def State.setStop (s : State) : State := { s with stop := true }

/-- Entering key-wait: `KW_PENDING <- 1; KW_TARGET <- x` (45_timers_keypad R185). -/
def State.enterKeyWait (s : State) (x : Nibble) : State := { s with kwPending := true, kwTarget := x }

/-- `draw_strobe <- 1` (40_step_cycle R101). -/
def State.strobe (s : State) : State := { s with drawStrobe := true }

/-- The skip of 41_control_flow R110: `PC <- PC + 2` when the condition holds. -/
def State.skipIf (s : State) (cond : Bool) : State := if cond then s.setPc s.pcPlus2 else s

/-! ## Faults (60_exceptions R203) -/

/-- `raise f`: everything done so far stays, the first fault's code is latched, `continue` and `draw_strobe` are 0
(60_exceptions R203). A code already latched is kept (10_state R30, log 13). -/
def State.raise (s : State) (f : FaultCode) : State :=
  { s with fault := s.fault.or (some f), contin := false, drawStrobe := false }

/-- The number of a fault code (60_exceptions R201). -/
def FaultCode.code : FaultCode → Nat
  | .outOfBoundsAccess => 1
  | .unsupportedOpcode => 2
  | .stackUnderflow => 3
  | .stackOverflow => 4

/-- The output `fault_out` (60_exceptions R201): 0 for `None`. -/
def State.faultOut (s : State) : Nat :=
  match s.fault with
  | none => 0
  | some f => f.code

/-! ## The call stack (10_state R25) -/

/-- `SP`: "the number of entries held" (10_state R25). -/
def State.sp (s : State) : Nat := s.stack.length

/-- Push: `StackOverflow` when `STACK_DEPTH` entries are held, before any change; else the new entry and `PC <- target`
(10_state R25, 41_control_flow R114). -/
def State.pushAndJump (s : State) (ret target : Word) : State :=
  if s.sp < s.cfg.stackDepth then { s with stack := s.stack ++ [ret], pc := target }
  else s.raise .stackOverflow

/-- Pop: `StackUnderflow` when no entry is held, before any change; else the newest entry goes to `PC` (10_state R25,
41_control_flow R112). -/
def State.popAndJump (s : State) : State :=
  match s.stack.getLast? with
  | none => s.raise .stackUnderflow
  | some w => { s with stack := s.stack.dropLast, pc := w }

/-! ## Accesses of several bytes (20_memory R56, ascending, faulting at the first byte out of range) -/

/-- `MemWrite` of the bytes `bs` from address `a` on: the first byte out of range raises `OutOfBoundsAccess`, the bytes
before it stay written (43_index_memory R153, R154). -/
def State.storeBytes : List Byte → Nat → State → State
  | [], _, s => s
  | b :: bs, a, s =>
    if a < Config.memSize then State.storeBytes bs (a + 1) (s.writeMem a b)
    else s.raise .outOfBoundsAccess

/-- `MemRead` of `k` bytes from address `a` on into `V[r]`, `V[r+1]`, ...: the first byte out of range raises
`OutOfBoundsAccess`, the registers before it stay loaded (43_index_memory R155). -/
def State.loadRegs : Nat → Nat → Nat → State → State
  | 0, _, _, s => s
  | k + 1, r, a, s =>
    if a < Config.memSize then State.loadRegs k (r + 1) (a + 1) (s.setV (BitVec.ofNat 4 r) (s.readMem a))
    else s.raise .outOfBoundsAccess

/-! ## The display (44_display R171) -/

/-- The sprite byte left-aligned in a row and moved right by `px`; bits shifted below bit 0 are lost (44_display R171). -/
def spriteLine (b : Byte) (px : Nat) : Row := (b.setWidth 64 <<< 56) >>> px

/-- One sprite row on the display and the collision so far: skipped, without fault, when its byte lies outside `MEM` or its
row below the display; the collision is tested before the XOR (44_display R171). -/
def drawRow (c : Config) (m : Memory) (base px py i : Nat) (acc : Vector Row 32 × Bool) : Vector Row 32 × Bool :=
  if h : base + i ≤ 4095 ∧ py + i ≤ 31 then
    let line := spriteLine (Memory.read c m (base + i)) px
    let old := acc.1[py + i]'(Nat.lt_succ_of_le h.2)
    (acc.1.set (py + i) (old ^^^ line) (Nat.lt_succ_of_le h.2), acc.2 || (old &&& line) != 0#64)
  else acc

/-- The sprite rows `0` to `n - 1`, in that order (44_display R171). -/
def drawRows (c : Config) (m : Memory) (base px py : Nat) : Nat → Vector Row 32 × Bool → Vector Row 32 × Bool
  | 0, acc => acc
  | n + 1, acc => drawRow c m base px py n (drawRows c m base px py n acc)

/-! ## The step's phases (40_step_cycle R90) -/

/-- A timer's decrement, floored at 0 (40_step_cycle R91). -/
def decr (b : Byte) : Byte := if b = 0#8 then 0#8 else b - 1#8

/-- What the ports show at the next step: the host's next sample, else a free value (log 7). -/
def State.nextInput (s : State) : StepInput :=
  match s.inputs with
  | [] => Config.freeInput s.inputCount
  | inp :: _ => inp

/-- The state when the step's sample is taken from the host's list. -/
def State.takeInput (s : State) : State := { s with inputs := s.inputs.tail, inputCount := s.inputCount + 1 }

/-- The first lines of a live step: `draw_strobe <- 0`, the timer tick (40_step_cycle R91) and the key poll (R92), both ports
sampled at the same instant. -/
def State.begin (s : State) (inp : StepInput) : State :=
  { s with drawStrobe := false, dt := decr s.dt, st := decr s.st, keys := inp.keys, rndIn := inp.rnd }

/-- A step with `FAULT` set: no state changes and `continue` is 0 (60_exceptions R204); `draw_strobe` is 0, since no `Dxyn`
executed (40_step_cycle R101, log 9). -/
def State.frozen (s : State) : State := { s with contin := false, drawStrobe := false }

/-- `lowest_set` (00_scope R12): the least `i` with `k[i] = 1`. -/
def lowestSet (k : Word) : Nat := ((List.range 16).find? fun i => k.getLsbD i).getD 0

/-- The key-wait part of a step, after the poll: resolution when a key is down (40_step_cycle R93), and `continue` 1 without a
fetch in either case (R94). -/
def State.keyWaitStep (s : State) : State :=
  if s.keys = 0#16 then { s with contin := true }
  else { s.setV s.kwTarget (BitVec.ofNat 8 (lowestSet s.keys)) with kwPending := false, contin := true }

/-- The two bytes at `PC`, unless one of them lies outside `MEM` (40_step_cycle R95, 20_memory R55). -/
def State.fetch (s : State) : Option (Byte × Byte) :=
  if s.pc.toNat < 4095 then some (s.readMem s.pc.toNat, s.readMem (s.pc.toNat + 1)) else none

/-- `PC <- a + 2`, the advance of the fetch (40_step_cycle R95). -/
def State.advance (s : State) : State := s.setPc s.pcPlus2

/-- The last line of a step that fetched: `continue` (40_step_cycle R98), which is 0 after a fault (60_exceptions R203). -/
def State.finish (s : State) : State :=
  { s with contin := s.fault.isNone && !s.stop && decide (s.pc.toNat < Config.memSize) }

/-! ## The host's events (00_scope R9) -/

/-- `Load(image)` (70_reset_and_hazards R230): every element at its reset value and the image at 512; an image longer than
3584 bytes is refused and nothing changes (R231). The host's own samples to come are not the machine's state and stay. -/
def State.load (image : List Byte) (s : State) : Result :=
  if image.length ≤ Config.progMax then
    .next { State.init s.cfg with
      mem := Memory.storeImage s.cfg image Config.progBase [], inputs := s.inputs, inputCount := s.inputCount }
  else .refused .romLoadError

/-- `RequestStop`: `STOP <- 1` (40_step_cycle R99). -/
def State.requestStop (s : State) : State := s.setStop

/-- `s` with the word `w` where the next step fetches it. That needs a step that fetches, so `FAULT` and `KW_PENDING` are
cleared, and a `PC` that a fetch can read, so a `PC` of 4095 or more becomes 512; right after reset neither changes
anything (log 20). -/
def State.placeWord (s : State) (hi lo : Byte) : State :=
  let a := if s.pc.toNat < 4095 then s.pc else 512#16
  { s with
    pc := a
    mem := Memory.write s.cfg (Memory.write s.cfg s.mem a.toNat hi) (a.toNat + 1) lo
    kwPending := false
    fault := none }

end Sys2Proof.Machine
end

