-- ==== Sys2Proof/Machine/Operands.lean ====
section
/-!
DEFINITION. The operand forms (30_encoding R72, 43_index_memory R156): zero-extended immediates, the effective address, the
fetch address, and the byte sequences of the instructions that store or load several bytes.
-/

namespace Sys2Proof.Machine

/-- `zext_16(nnn)`: an absolute byte address (30_encoding R72, 41_control_flow R110). -/
def zextAddr (nnn : Addr12) : Word := nnn.setWidth 16

/-- `a`, the address the instruction was fetched from: `PC` already holds `a + 2` (00_scope R13, 41_control_flow; log 12). -/
def State.fetchAddr (s : State) : Word := s.pc - 2#16

/-- The effective address `I + k`, a natural number that is never reduced (43_index_memory R156). -/
def State.ea (s : State) (k : Nat) : Nat := s.i.toNat + k

/-- `V[0]` to `V[x]`, ascending: what `Fx55` stores (43_index_memory R154). -/
def State.regsUpTo (s : State) (x : Nibble) : List Byte :=
  (List.range (x.toNat + 1)).map fun r => s.getV (BitVec.ofNat 4 r)

/-- Hundreds, tens and units of a byte: what `Fx33` stores (43_index_memory R153). -/
def bcdDigits (b : Byte) : List Byte :=
  [BitVec.ofNat 8 (b.toNat / 100), BitVec.ofNat 8 (b.toNat / 10 % 10), BitVec.ofNat 8 (b.toNat % 10)]

/-- The key that `Vx` names: the whole byte is the index, and above 15 there is none (`KEY_INDEX_OOR` = `fault`) or its low
nibble is taken (`mask4`) (45_timers_keypad R183). -/
def State.keyIndex (s : State) (x : Nibble) : Option Nat :=
  if (s.getV x).toNat ≤ 15 then some (s.getV x).toNat
  else
    match s.cfg.keyIndexOor with
    | .fault => none
    | .mask4 => some ((s.getV x).toNat % 16)

/-- The sum that `Fx1E` writes: `(I + Vx)` modulo two to the power `I_WIDTH` (43_index_memory R151). -/
def State.indexSum (s : State) (x : Nibble) : Word :=
  BitVec.ofNat 16 ((s.i.toNat + (s.getV x).toNat) % 2 ^ s.cfg.iWidth)

/-- `Vx * 5`, the address of a font glyph, `Vx` not masked (43_index_memory R152). -/
def State.glyphAddr (s : State) (x : Nibble) : Word := BitVec.ofNat 16 ((s.getV x).toNat * 5)

/-- The target of `Bnnn`: `V0 + nnn`, not reduced modulo 4096 (41_control_flow R115). -/
def State.offsetTarget (s : State) (nnn : Addr12) : Word := Config.pcValue s.cfg ((s.getV 0#4).toNat + nnn.toNat)

end Sys2Proof.Machine
end

