-- ==== Sys2Proof/Machine/Flags.lean ====
section
/-!
DEFINITION. The flag computations and the writes to `VF`, the machine's only flag register (10_state R22, 42_alu R132).
-/

namespace Sys2Proof.Machine

/-- A flag is stored as the byte 0 or 1 (10_state R22). -/
def flagByte (b : Bool) : Byte := if b then 1#8 else 0#8

/-- The carry of `8xy4`: 1 iff the unreduced sum exceeds 255 (42_alu R137). -/
def carryFlag (p q : Byte) : Byte := flagByte (decide (p.toNat + q.toNat > 255))

/-- The no-borrow of `p - q`: 1 iff `p >= q` (42_alu R138). -/
def noBorrowFlag (p q : Byte) : Byte := flagByte (decide (p.toNat ≥ q.toNat))

/-- The bit that `8xy6` shifts out: bit 0 (42_alu R139). -/
def shiftedOutRight (p : Byte) : Byte := flagByte (p.getLsbD 0)

/-- The bit that `8xyE` shifts out: bit 7 (42_alu R141). -/
def shiftedOutLeft (p : Byte) : Byte := flagByte (p.getLsbD 7)

/-- `VF <- f`. -/
def State.setFlag (s : State) (f : Byte) : State := s.setV Config.flagReg f

/-- The two writes of `8xy4`, `8xy5` and `8xy7`, the result to `Vx` and the flag to `VF`, in the order that
`FLAG_ORDER_X15` names; the order matters only for `x` = 15 (42_alu R137, R138, R140). -/
def State.writeResultFlag (s : State) (x : Nibble) (r f : Byte) : State :=
  match s.cfg.flagOrder with
  | .flagLast => (s.setV x r).setFlag f
  | .resultLast => (s.setFlag f).setV x r

end Sys2Proof.Machine
end

