-- ==== Sys2Proof/Machine/Alu.lean ====
section
/-!
DEFINITION. The load-immediate, arithmetic, logic, shift and random instructions (42_alu). Source registers are read before
any register is written (R132), but for the second read that `8xy6` and `8xyE` make (R139, R141).
-/

namespace Sys2Proof.Machine

/-- `6xkk` (42_alu R130). -/
def execLdImm (x : Nibble) (kk : Byte) (s : State) : Result := .next (s.setV x kk)

/-- `7xkk` (42_alu R131): no flag. -/
def execAddImm (x : Nibble) (kk : Byte) (s : State) : Result := .next (s.setV x (s.getV x + kk))

/-- `8xy0` (42_alu R133). -/
def execLdReg (x y : Nibble) (s : State) : Result := .next (s.setV x (s.getV y))

/-- `8xy1` (42_alu R134): `VF` is not written. -/
def execOr (x y : Nibble) (s : State) : Result := .next (s.setV x (s.getV x ||| s.getV y))

/-- `8xy2` (42_alu R135): `VF` is not written. -/
def execAnd (x y : Nibble) (s : State) : Result := .next (s.setV x (s.getV x &&& s.getV y))

/-- `8xy3` (42_alu R136): `VF` is not written. -/
def execXor (x y : Nibble) (s : State) : Result := .next (s.setV x (s.getV x ^^^ s.getV y))

/-- `8xy4` (42_alu R137). -/
def execAddReg (x y : Nibble) (s : State) : Result :=
  .next (s.writeResultFlag x (s.getV x + s.getV y) (carryFlag (s.getV x) (s.getV y)))

/-- `8xy5` (42_alu R138). -/
def execSub (x y : Nibble) (s : State) : Result :=
  .next (s.writeResultFlag x (s.getV x - s.getV y) (noBorrowFlag (s.getV x) (s.getV y)))

/-- `8xy6` (42_alu R139): the flag first, then the shift of `Vx` as it then reads. -/
def execShr (x _y : Nibble) (s : State) : Result :=
  let t := s.setFlag (shiftedOutRight (s.getV x))
  .next (t.setV x (t.getV x >>> 1))

/-- `8xy7` (42_alu R140): `VF` is written only under `SUBN_VF` = `not_borrow`. -/
def execSubn (x y : Nibble) (s : State) : Result :=
  match s.cfg.subnVf with
  | .unchanged => .next (s.setV x (s.getV y - s.getV x))
  | .notBorrow => .next (s.writeResultFlag x (s.getV y - s.getV x) (noBorrowFlag (s.getV y) (s.getV x)))

/-- `8xyE` (42_alu R141): the flag first, then the shift of `Vx` as it then reads. -/
def execShl (x _y : Nibble) (s : State) : Result :=
  let t := s.setFlag (shiftedOutLeft (s.getV x))
  .next (t.setV x (t.getV x <<< 1))

/-- `Cxkk` (42_alu R142): the byte sampled in this step. -/
def execRnd (x : Nibble) (kk : Byte) (s : State) : Result := .next (s.setV x (s.rndIn &&& kk))

end Sys2Proof.Machine
end

