-- ==== Sys2Proof/Machine/ControlFlow.lean ====
section
/-!
DEFINITION. The control flow instructions (41_control_flow). `PC` already holds `a + 2` (40_step_cycle R95).
-/

namespace Sys2Proof.Machine

/-- `0nnn` (41_control_flow R111): raw jump, without the halt quirk. -/
def execJp0 (nnn : Addr12) (s : State) : Result := .next (s.setPc (zextAddr nnn))

/-- `00EE` (41_control_flow R112). -/
def execRet (s : State) : Result := .next s.popAndJump

/-- `1nnn` (41_control_flow R113): a jump to its own address sets `STOP`. -/
def execJp (nnn : Addr12) (s : State) : Result :=
  .next (if zextAddr nnn = s.fetchAddr then (s.setPc (zextAddr nnn)).setStop else s.setPc (zextAddr nnn))

/-- `2nnn` (41_control_flow R114): the saved address is `PC` after the fetch advance. -/
def execCall (nnn : Addr12) (s : State) : Result := .next (s.pushAndJump s.pc (zextAddr nnn))

/-- `Bnnn` (41_control_flow R115). -/
def execJpV0 (nnn : Addr12) (s : State) : Result := .next (s.setPc (s.offsetTarget nnn))

/-- `3xkk` (41_control_flow R116). -/
def execSeImm (x : Nibble) (kk : Byte) (s : State) : Result := .next (s.skipIf (s.getV x == kk))

/-- `4xkk` (41_control_flow R117). -/
def execSneImm (x : Nibble) (kk : Byte) (s : State) : Result := .next (s.skipIf (s.getV x != kk))

/-- `5xyN` (41_control_flow R118); the fourth nibble is ignored (30_encoding R76). -/
def execSeReg (x y _n : Nibble) (s : State) : Result := .next (s.skipIf (s.getV x == s.getV y))

/-- `9xyN` (41_control_flow R119); the fourth nibble is ignored (30_encoding R76). -/
def execSneReg (x y _n : Nibble) (s : State) : Result := .next (s.skipIf (s.getV x != s.getV y))

end Sys2Proof.Machine
end

