-- ==== Sys2Proof/Machine/Display.lean ====
section
/-!
DEFINITION. The display instructions (44_display).
-/

namespace Sys2Proof.Machine

/-- `00E0` (44_display R170): every row 0; no flag, no `draw_strobe`. -/
def execCls (s : State) : Result := .next (s.setFb (Vector.replicate 32 0#64))

/-- What `Dxyn` leaves on the display, and whether a set pixel was cleared: both coordinates are read first, taken modulo
the display's size, and the sprite's bytes start at `I` (44_display R171). -/
def State.drawn (s : State) (x y n : Nibble) : Vector Row 32 × Bool :=
  drawRows s.cfg s.mem (s.ea 0) ((s.getV x).toNat % 64) ((s.getV y).toNat % 32) n.toNat (s.fb, false)

/-- `Dxyn` (44_display R171): `VF` is written once, after all rows, and `draw_strobe` is raised. -/
def execDrw (x y n : Nibble) (s : State) : Result :=
  .next (((s.setFb (s.drawn x y n).1).setFlag (flagByte (s.drawn x y n).2)).strobe)

end Sys2Proof.Machine
end

