-- ==== Sys2Proof/Machine/IndexMemory.lean ====
section
/-!
DEFINITION. The address-register and memory instructions (43_index_memory). None writes a flag, none changes the base `I`
of its access (R156).
-/

namespace Sys2Proof.Machine

/-- `Annn` (43_index_memory R150). -/
def execLdI (nnn : Addr12) (s : State) : Result := .next (s.setI (zextAddr nnn))

/-- `Fx1E` (43_index_memory R151). -/
def execAddI (x : Nibble) (s : State) : Result := .next (s.setI (s.indexSum x))

/-- `Fx29` (43_index_memory R152). -/
def execLdF (x : Nibble) (s : State) : Result := .next (s.setI (s.glyphAddr x))

/-- `Fx33` (43_index_memory R153). -/
def execLdB (x : Nibble) (s : State) : Result := .next (State.storeBytes (bcdDigits (s.getV x)) (s.ea 0) s)

/-- `Fx55` (43_index_memory R154). -/
def execLdMemVx (x : Nibble) (s : State) : Result := .next (State.storeBytes (s.regsUpTo x) (s.ea 0) s)

/-- `Fx65` (43_index_memory R155). -/
def execLdVxMem (x : Nibble) (s : State) : Result := .next (State.loadRegs (x.toNat + 1) 0 (s.ea 0) s)

end Sys2Proof.Machine
end

