-- ==== Sys2Proof/Machine/Reserved.lean ====
section
/-!
DEFINITION. The reserved words of the opcode table (30_encoding R78, R79).
-/

namespace Sys2Proof.Machine

/-- What an undefined word of class E or F does, by `RESERVED_EF` (30_encoding R79). -/
def State.undefinedEF (s : State) : State :=
  match s.cfg.reservedEf with
  | .fault => s.raise .unsupportedOpcode
  | .nop => s

/-- `8xyN`, an illegal fourth nibble (30_encoding R78). -/
def execReserved8 (_x _y _n : Nibble) (s : State) : Result := .next (s.raise .unsupportedOpcode)

/-- `Exkk`, an undefined low byte (30_encoding R79). -/
def execReservedE (_x : Nibble) (_kk : Byte) (s : State) : Result := .next s.undefinedEF

/-- `Fxkk`, an undefined low byte (30_encoding R79). -/
def execReservedF (_x : Nibble) (_kk : Byte) (s : State) : Result := .next s.undefinedEF

end Sys2Proof.Machine
end

