-- ==== Sys2Proof/Machine/TimersKeypad.lean ====
section
/-!
DEFINITION. The timer and keypad instructions (45_timers_keypad). The tick and the key poll of the step come before them
(40_step_cycle R91, R92).
-/

namespace Sys2Proof.Machine

/-- `Fx07` (45_timers_keypad R180): `DT` as decremented in this step. -/
def execLdVxDt (x : Nibble) (s : State) : Result := .next (s.setV x s.dt)

/-- `Fx15` (45_timers_keypad R181). -/
def execLdDtVx (x : Nibble) (s : State) : Result := .next (s.setDt (s.getV x))

/-- `Fx18` (45_timers_keypad R182). -/
def execLdStVx (x : Nibble) (s : State) : Result := .next (s.setSt (s.getV x))

/-- `Ex9E` (45_timers_keypad R183). -/
def execSkp (x : Nibble) (s : State) : Result :=
  match s.keyIndex x with
  | none => .next (s.raise .outOfBoundsAccess)
  | some k => .next (s.skipIf (s.keys.getLsbD k))

/-- `ExA1` (45_timers_keypad R184). -/
def execSknp (x : Nibble) (s : State) : Result :=
  match s.keyIndex x with
  | none => .next (s.raise .outOfBoundsAccess)
  | some k => .next (s.skipIf (!s.keys.getLsbD k))

/-- `Fx0A` (45_timers_keypad R185): the executing step only enters the wait. -/
def execLdVxK (x : Nibble) (s : State) : Result := .next (s.enterKeyWait x)

end Sys2Proof.Machine
end

