-- ==== Sys2Proof/Machine/Step.lean ====
section
/-!
DEFINITION. One step of the machine (40_step_cycle R90), the host's events, and placing a word where the next step fetches.
-/

namespace Sys2Proof.Machine

/-- What a step does around its instruction's effect: `continue` is computed last (40_step_cycle R98). -/
def finishResult : Result → Result
  | .next t => .next t.finish
  | .fault r => .fault r
  | .refused r => .refused r

/-- The part of a live step after the tick and the poll: key-wait, or fetch, decode and execute (40_step_cycle R90, its
parts 2 to 4). -/
def stepLive (s : State) : Result :=
  if s.kwPending then .next s.keyWaitStep
  else
    match s.fetch with
    | none => .next (s.raise .outOfBoundsAccess)
    | some (hi, lo) => finishResult (exec (decodeWord (wordOfBytes hi lo)) s.advance)

/-- `Step(keys_in, rnd_in)` (40_step_cycle R90): frozen while `FAULT` is set (60_exceptions R204), else the tick and the
poll, then `stepLive`. -/
def stepWith (inp : StepInput) (s : State) : Result :=
  match s.fault with
  | some _ => .next s.frozen
  | none => stepLive (s.begin inp)

/-- A `Step` whose samples are the next that the host has lined up, or free values (log 7). -/
def step (s : State) : Host.Outcome State Fault Refusal := stepWith s.nextInput s.takeInput

/-- What the host can do to the machine (00_scope R9); reading the outputs changes nothing. -/
inductive HostEvent where
  /-- `Load(image)` (70_reset_and_hazards R230). -/
  | load (image : List Byte)
  /-- `Step(keys_in, rnd_in)` (40_step_cycle R90). -/
  | step (inp : StepInput)
  /-- `RequestStop` (40_step_cycle R99). -/
  | requestStop
deriving DecidableEq, Repr

/-- The machine's answer to an event of the host. -/
def hostEvent (e : HostEvent) (s : State) : Result :=
  match e with
  | .load image => s.load image
  | .step inp => stepWith inp s
  | .requestStop => .next s.requestStop

/-- `s` with the instruction whose bits are `w` where `step` fetches its next instruction (30_encoding R70, 20_memory R54). -/
def State.withFetchWord (s : State) (nbits w : Nat) : State :=
  s.placeWord (hiByte (tableWord nbits w)) (loByte (tableWord nbits w))

end Sys2Proof.Machine
end

