-- ==== Sys2Proof/Safety.lean ====
section
/-!
DEFINITION. What counts as a safe state and run: the invariant that every event of the host keeps, and the ends of a run
(40_step_cycle R100); and the terms the statements use: the instruction a step executes, the instructions that write one
register, the pixels of the display and of a sprite.
-/

namespace Sys2Proof.Machine

/-- A run that is not failed: "no fault recorded" (10_state R30, 60_exceptions R203). -/
abbrev State.NoFault (s : State) : Prop := s.fault = none

/-- A run in progress or at its end (40_step_cycle R100): how many steps it has taken since its `Load`, and the state
after the last of them and the stop requests since. -/
structure Run where
  /-- The steps taken; 0 right after `Load`. -/
  steps : Nat
  /-- The state. -/
  state : State
deriving DecidableEq, Repr

/-- The run that a `Load` begins: no step taken yet; none where the image is refused (70_reset_and_hazards R231). -/
def Run.ofLoad (image : List Byte) (s : State) : Option Run :=
  match s.load image with
  | .next t => some ⟨0, t⟩
  | .fault _ => none
  | .refused _ => none

/-- The run has ended: it took a step, and its last step output `continue` = 0 or raised a fault (40_step_cycle R100). -/
def Run.ended (r : Run) : Bool := decide (0 < r.steps) && (!r.state.contin || r.state.fault.isSome)

/-- The run after one more event: a step, counted, or a request to stop. A run that has ended takes none, and a `Load`
belongs to another run (40_step_cycle R100). -/
def Run.next (r : Run) (e : HostEvent) : Option Run :=
  if r.ended then none
  else
    match e with
    | .load _ => none
    | .requestStop => some { r with state := r.state.requestStop }
    | .step inp =>
      match stepWith inp r.state with
      | .next t => some ⟨r.steps + 1, t⟩
      | .fault _ => none
      | .refused _ => none

/-- The run after the events `es`, in order. -/
def Run.after : List HostEvent → Run → Option Run
  | [], r => some r
  | e :: es, r => (r.next e).bind (Run.after es)

/-- The run that `Load` of the image begins from `s`, after the events `es`. -/
def State.runAfter (s : State) (image : List Byte) (es : List HostEvent) : Option Run :=
  (Run.ofLoad image s).bind (Run.after es)

/-- A normal end, the halt: the run has ended, and no fault is recorded (40_step_cycle R100). -/
abbrev Run.Halted (r : Run) : Prop := r.ended = true ∧ r.state.fault = none

/-- A failed run: it has ended in a fault, and "its state is not a result" (40_step_cycle R100). -/
abbrev Run.Failed (r : Run) : Prop := r.ended = true ∧ r.state.fault ≠ none

/-- The states a run can be in. `MEM` is in canonical form; at most `STACK_DEPTH` entries are held (10_state R25), each a
saved `PC`, so at most 4096; `PC` never exceeds 4350 (R23); `I` fits `I_WIDTH` (R24); a machine in key-wait is not faulted
(60_exceptions R202, R217); a faulted one outputs `continue` = 0 and `draw_strobe` = 0 (R203). -/
abbrev State.Inv (s : State) : Prop :=
  s.cfg.Valid ∧
  Memory.wf s.cfg s.mem = true ∧
  s.stack.length ≤ s.cfg.stackDepth ∧
  s.stack.all (fun w => decide (w.toNat ≤ 4096)) = true ∧
  s.pc.toNat ≤ 4350 ∧
  s.i.toNat < 2 ^ s.cfg.iWidth ∧
  (s.kwPending = true → s.fault = none) ∧
  (s.fault ≠ none → s.contin = false ∧ s.drawStrobe = false)

/-- The instruction that the next step executes: none while faulted (60_exceptions R204), in key-wait (40_step_cycle R94)
or where the fetch faults (R95). -/
def State.nextInstr (s : State) : Option Instr :=
  if s.fault = none ∧ s.kwPending = false ∧ s.pc.toNat < 4095 then
    some (decodeWord (wordOfBytes (s.readMem s.pc.toNat) (s.readMem (s.pc.toNat + 1))))
  else none

/-- `i` completes from `s`, writes `b` to `V[x]`, and changes nothing else. -/
def WritesRegister (i : Instr) (s : State) (x : Nibble) (b : Byte) : Prop :=
  ∃ t, exec i s = .next t ∧ t = { s with v := t.v } ∧ ∀ q, t.getV q = if q = x then b else s.getV q

/-- `i` completes from `s`, changes `PC` at most, and adds 2 to it exactly when the condition holds (41_control_flow R110):
the sum modulo two to the power `PC_WIDTH` (logs 3, 14), which is the sum itself at every valid width and every `PC` of a run. -/
def SkipsWhen (i : Instr) (s : State) (cond : Prop) : Prop :=
  ∃ t, exec i s = .next t ∧ t = { s with pc := t.pc } ∧
    (cond → t.pc = BitVec.ofNat 16 ((s.pc.toNat + 2) % 2 ^ s.cfg.pcWidth)) ∧
    (cond → 13 ≤ s.cfg.pcWidth → s.pc.toNat ≤ 4350 → t.pc.toNat = s.pc.toNat + 2) ∧
    (¬ cond → t.pc = s.pc)

/-- `i` raises `f` from `s` before it changes anything else (60_exceptions R203). -/
def RaisesAtOnce (i : Instr) (s : State) (f : FaultCode) : Prop :=
  exec i s = .next { s with fault := some f, contin := false, drawStrobe := false }

/-- The pixel at row `r` and column `c` of the display (44_display R172); none outside it. -/
def State.pixel (s : State) (r c : Nat) : Bool :=
  if h : r < 32 then decide (c < 64) && s.fb[r].getLsbD (63 - c) else false

/-- Whether the sprite that `Dxyn` draws from `s` has a set pixel at row `r` and column `c` of the display, by 44_display
R171: the start wraps, the body is cut at the edges, and a row whose byte lies outside `MEM` is not drawn. -/
def State.spritePixel (s : State) (x y n : Nibble) (r c : Nat) : Bool :=
  let px := (s.getV x).toNat % 64
  let py := (s.getV y).toNat % 32
  decide (r < 32 ∧ py ≤ r ∧ r < py + n.toNat ∧ s.i.toNat + (r - py) ≤ 4095 ∧ c < 64 ∧ px ≤ c ∧ c < px + 8) &&
    (s.readMem (s.i.toNat + (r - py))).getLsbD (7 - (c - px))

end Sys2Proof.Machine
end

