-- ==== Sys2Proof/Certificates/Slice0/Obligations.lean ====
section
/-!
DEFINITION. The statements for the provers. `s` is any state; in a statement about `exec` it is the state after the step's
tick, poll and fetch, so that `s.pc` is the fetch address plus 2 (40_step_cycle R95). `t = { s with f := t.f }` says that
nothing but the field `f` changed.
-/

open Sys2Proof Sys2Proof.Machine

/-! ## Decoding and encoding -/

/-- Words of every format, written out from 30_encoding R74 and the decoding vectors of 95_test_vectors, Part 2. -/
def Obligations.WordsDecodeAsTheTableSays : Prop :=
  decodeWord 0x00E0#16 = .cls ∧ decodeWord 0x00EE#16 = .ret ∧ decodeWord 0x00E1#16 = .jp0 0x0E1#12 ∧
  decodeWord 0x2ABC#16 = .call 0xABC#12 ∧ decodeWord 0x3A7F#16 = .seImm 0xA#4 0x7F#8 ∧
  decodeWord 0x512F#16 = .seReg 1#4 2#4 0xF#4 ∧ decodeWord 0x8125#16 = .sub 1#4 2#4 ∧
  decodeWord 0x812E#16 = .shl 1#4 2#4 ∧ decodeWord 0xA20C#16 = .ldI 0x20C#12 ∧
  decodeWord 0xC10F#16 = .rnd 1#4 0x0F#8 ∧ decodeWord 0xD125#16 = .drw 1#4 2#4 5#4 ∧
  decodeWord 0xE1A1#16 = .sknp 1#4 ∧ decodeWord 0xF165#16 = .ldVxMem 1#4 ∧
  decodeWord 0x812D#16 = .reserved8 1#4 2#4 0xD#4 ∧ decodeWord 0xE19F#16 = .reservedE 1#4 0x9F#8 ∧
  decodeWord 0xF130#16 = .reservedF 1#4 0x30#8

/-- 30_encoding R70, R71, R74 and 20_memory R54: the two bytes of a well-formed instruction, the high one first, decode to
it, whatever follows them. -/
def Obligations.DecodeOfEncodeIsTheInstruction : Prop :=
  ∀ (i : Instr) (rest : List Byte), i.wellFormed = true → decode (encodeBytes i ++ rest) = .ok (i, rest)

/-- 30_encoding R73, R80: decoding is total, answers a well-formed instruction, and drops no bit of the word. -/
def Obligations.EncodeOfDecodeIsTheWord : Prop :=
  ∀ w : Word, (decodeWord w).wellFormed = true ∧ encode (decodeWord w) = w

/-- 30_encoding R78, R79: exactly the words that the rules list are reserved. -/
def Obligations.ReservedWordsAreExactlyTheListed : Prop :=
  ∀ w : Word,
    ((∃ x y n, decodeWord w = .reserved8 x y n) ↔
      w.toNat / 4096 = 8 ∧ w.toNat % 16 ∈ [8, 9, 0xA, 0xB, 0xC, 0xD, 0xF]) ∧
    ((∃ x kk, decodeWord w = .reservedE x kk) ↔ w.toNat / 4096 = 0xE ∧ w.toNat % 256 ∉ [0x9E, 0xA1]) ∧
    ((∃ x kk, decodeWord w = .reservedF x kk) ↔
      w.toNat / 4096 = 0xF ∧ w.toNat % 256 ∉ [0x07, 0x0A, 0x15, 0x18, 0x1E, 0x29, 0x33, 0x55, 0x65])

/-- 30_encoding R75: class 0 is the two fixed words and the raw jump; never-written memory reads as the word 0, a jump
to 0. -/
def Obligations.ClassZeroIsTwoFixedWordsAndTheRawJump : Prop :=
  (∀ w : Word, w.toNat < 0x1000 →
    decodeWord w = if w.toNat = 0x00E0 then .cls else if w.toNat = 0x00EE then .ret else .jp0 (BitVec.ofNat 12 w.toNat)) ∧
  (∀ (nnn : Addr12) (s : State), exec (.jp0 nnn) s = .next { s with pc := BitVec.ofNat 16 nnn.toNat }) ∧
  (∀ (s t : State) (a : Nat), s.load [] = .next t → 80 ≤ a → a < 4095 →
    decodeWord (wordOfBytes (t.readMem a) (t.readMem (a + 1))) = .jp0 0#12)

/-- 30_encoding R76: `5xyN` and `9xyN` execute as `5xy0` and `9xy0`. -/
def Obligations.FourthNibbleOfClasses5And9IsIgnored : Prop :=
  ∀ (x y n : Nibble) (s : State),
    exec (.seReg x y n) s = exec (.seReg x y 0#4) s ∧ exec (.sneReg x y n) s = exec (.sneReg x y 0#4) s

/-! ## The step -/

/-- 40_step_cycle R90, R95, R97: when the machine is neither faulted nor in key-wait and the two bytes at `PC` lie in `MEM`
and decode to `i`, the step is `exec i` on the state after the tick, the poll and the advance of `PC` by 2, with `continue`
computed last. The sum modulo two to the power `PC_WIDTH` is the
model's choice (logs 3, 14); at a width of 13 and more it is the sum itself (10_state R23). -/
def Obligations.StepExecutesTheFetchedInstruction : Prop :=
  ∀ (s : State) (i : Instr), s.fault = none → s.kwPending = false → s.pc.toNat < 4095 →
    decode [s.readMem s.pc.toNat, s.readMem (s.pc.toNat + 1)] = .ok (i, []) →
    i.wellFormed = true ∧
    (13 ≤ s.cfg.pcWidth → (BitVec.ofNat 16 ((s.pc.toNat + 2) % 2 ^ s.cfg.pcWidth)).toNat = s.pc.toNat + 2) ∧
    step s = finishResult (exec i
      { s with
        pc := BitVec.ofNat 16 ((s.pc.toNat + 2) % 2 ^ s.cfg.pcWidth), dt := BitVec.ofNat 8 (s.dt.toNat - 1), st := BitVec.ofNat 8 (s.st.toNat - 1)
        keys := s.nextInput.keys, rndIn := s.nextInput.rnd, drawStrobe := false
        inputs := s.inputs.tail, inputCount := s.inputCount + 1 }) ∧
    ∀ t, finishResult (.next t) =
      .next { t with contin := decide (t.fault = none ∧ t.stop = false ∧ t.pc.toNat < 4096) }

/-- 40_step_cycle R95, 60_exceptions R202: a fetch at 4095 or above raises `OutOfBoundsAccess` after the tick and the poll,
with `PC` left at the fetch address and nothing else changed. -/
def Obligations.FetchOutsideMemoryFaults : Prop :=
  ∀ s : State, s.fault = none → s.kwPending = false → 4095 ≤ s.pc.toNat →
    ∃ t, step s = .next t ∧ t =
      { s with
        dt := BitVec.ofNat 8 (s.dt.toNat - 1), st := BitVec.ofNat 8 (s.st.toNat - 1), keys := s.nextInput.keys
        fault := some .outOfBoundsAccess, contin := false, drawStrobe := false
        rndIn := t.rndIn, inputs := t.inputs, inputCount := t.inputCount }

/-- 60_exceptions R204: while `FAULT` is set a step changes nothing and outputs `continue` = 0, a requested stop too, and
`Load` leaves the faulted state. -/
def Obligations.FaultedMachineIsFrozen : Prop :=
  ∀ (s : State) (c : FaultCode), s.fault = some c →
    (∃ t, step s = .next t ∧
      t = { s with contin := false, drawStrobe := t.drawStrobe, inputs := t.inputs, inputCount := t.inputCount } ∧
      (s.drawStrobe = false → t.drawStrobe = false)) ∧
    (∃ t, step s.requestStop = .next t ∧ t.fault = some c ∧
      t = { s with
            stop := true, contin := false, drawStrobe := t.drawStrobe, inputs := t.inputs, inputCount := t.inputCount }) ∧
    (∀ (image : List Byte) (t : State), s.load image = .next t → t.fault = none)

/-- 40_step_cycle R94: a step that begins in key-wait fetches nothing, leaves `PC` unchanged and outputs `continue` = 1
whatever `STOP` and `PC` hold; without a key only the tick and the poll happen. -/
def Obligations.KeyWaitStepSuspendsExecution : Prop :=
  ∀ s : State, s.fault = none → s.kwPending = true →
    ∃ t, step s = .next t ∧ t.contin = true ∧ t.pc = s.pc ∧
      (s.nextInput.keys = 0#16 → t =
        { s with
          dt := BitVec.ofNat 8 (s.dt.toNat - 1), st := BitVec.ofNat 8 (s.st.toNat - 1), keys := 0#16
          contin := true, drawStrobe := false, rndIn := t.rndIn, inputs := t.inputs, inputCount := t.inputCount }) ∧
      (s.nextInput.keys ≠ 0#16 → t.kwPending = false)

/-- 40_step_cycle R93: the poll that sees a key ends the wait, writes the lowest set key's index to the target register and,
besides the tick and the poll, nothing else. -/
def Obligations.KeyWaitResolvesToTheLowestKey : Prop :=
  ∀ (s : State) (k : Nat), s.fault = none → s.kwPending = true → s.nextInput.keys.getLsbD k = true →
    (∀ j < k, s.nextInput.keys.getLsbD j = false) →
    ∃ t, step s = .next t ∧
      (∀ q, t.getV q = if q = s.kwTarget then BitVec.ofNat 8 k else s.getV q) ∧ k < 16 ∧
      t =
        { s with
          v := t.v, dt := BitVec.ofNat 8 (s.dt.toNat - 1), st := BitVec.ofNat 8 (s.st.toNat - 1)
          keys := s.nextInput.keys, kwPending := false, contin := true, drawStrobe := false
          rndIn := t.rndIn, inputs := t.inputs, inputCount := t.inputCount }

/-- 40_step_cycle R91: each timer counts down by one, floored at 0, in every step of a machine that is not faulted, a step
in key-wait and a step that faults included; only the instruction that sets the timer, executed after the tick, writes it
again, and the one that reads `DT` reads the value already decremented. -/
def Obligations.TimersTickInEveryLiveStep : Prop :=
  ∀ s t : State, s.fault = none → step s = .next t →
    ((∀ x, s.nextInstr ≠ some (.ldDtVx x)) → t.dt.toNat = s.dt.toNat - 1) ∧
    ((∀ x, s.nextInstr ≠ some (.ldStVx x)) → t.st.toNat = s.st.toNat - 1) ∧
    (∀ x, s.nextInstr = some (.ldDtVx x) → t.dt = s.getV x) ∧
    (∀ x, s.nextInstr = some (.ldStVx x) → t.st = s.getV x) ∧
    (∀ x, s.nextInstr = some (.ldVxDt x) → (t.getV x).toNat = s.dt.toNat - 1)

/-- 40_step_cycle R92: `KEYS` holds the snapshot of the step, and no instruction changes it. -/
def Obligations.KeysHoldTheStepsSnapshot : Prop :=
  ∀ s t : State, s.fault = none → step s = .next t → t.keys = s.nextInput.keys

/-- 40_step_cycle R98: `continue` is 1 after a step that fetched exactly when `STOP` is 0, `PC` is below 4096 and the step
did not fault. -/
def Obligations.ContinueAfterAFetch : Prop :=
  ∀ (s t : State) (i : Instr), s.nextInstr = some i → step s = .next t →
    (t.contin = true ↔ t.stop = false ∧ t.pc.toNat < 4096 ∧ t.fault = none)

/-- 40_step_cycle R101: `draw_strobe` is 1 after a step exactly when the step executed `Dxyn`. -/
def Obligations.DrawStrobeMarksExactlyTheDraws : Prop :=
  ∀ s t : State, step s = .next t → (t.drawStrobe = true ↔ ∃ x y n, s.nextInstr = some (.drw x y n))

/-- 40_step_cycle R97, 60_exceptions R203, R204: from every state a step answers a next state; nothing stops the model. -/
def Obligations.EveryStepAnswersANextState : Prop := ∀ s : State, ∃ t, step s = .next t

/-- 60_exceptions R202: every way a step can fault, and nothing else. The stack is full when `STACK_DEPTH` entries are held;
holding more, which `State.Inv` rules out, faults as well. -/
def Obligations.FaultsHaveExactlyTheListedCauses : Prop :=
  ∀ s t : State, s.fault = none → step s = .next t →
    (t.fault = some .outOfBoundsAccess ↔
      (s.kwPending = false ∧ 4095 ≤ s.pc.toNat) ∨
      (∃ x, s.nextInstr = some (.ldB x) ∧ 4096 ≤ s.i.toNat + 2) ∨
      (∃ x, s.nextInstr = some (.ldMemVx x) ∧ 4096 ≤ s.i.toNat + x.toNat) ∨
      (∃ x, s.nextInstr = some (.ldVxMem x) ∧ 4096 ≤ s.i.toNat + x.toNat) ∨
      (∃ x, (s.nextInstr = some (.skp x) ∨ s.nextInstr = some (.sknp x)) ∧ 15 < (s.getV x).toNat ∧
        s.cfg.keyIndexOor = .fault)) ∧
    (t.fault = some .unsupportedOpcode ↔
      (∃ x y n, s.nextInstr = some (.reserved8 x y n)) ∨
      (∃ x kk, (s.nextInstr = some (.reservedE x kk) ∨ s.nextInstr = some (.reservedF x kk)) ∧
        s.cfg.reservedEf = .fault)) ∧
    (t.fault = some .stackUnderflow ↔ s.nextInstr = some .ret ∧ s.sp = 0) ∧
    (t.fault = some .stackOverflow ↔ (∃ nnn, s.nextInstr = some (.call nnn)) ∧ s.cfg.stackDepth ≤ s.sp)

/-! ## The invariant -/

/-- 00_scope R7, 10_state R23: `PC_WIDTH` is a parameter, and every width that holds 4350 gives the same runs: from a state
that meets the invariant a step under any other such width leaves the same state but for the parameter. -/
def Obligations.PcWidthsThatHoldEveryPcRunAlike : Prop :=
  ∀ (s t : State) (w : Nat), s.Inv → 13 ≤ w → step s = .next t →
    step { s with cfg := { s.cfg with pcWidth := w } } = .next { t with cfg := { t.cfg with pcWidth := w } }

/-- Every step keeps the invariant: canonical memory, the stack's depth and its entries, the bounds of `PC` and `I`, no fault
in key-wait, outputs 0 after a fault. -/
def Obligations.EveryStepKeepsTheInvariant : Prop := ∀ s t : State, s.Inv → step s = .next t → t.Inv

/-- Every event of the host keeps the invariant, whatever its image, key snapshot and random byte. -/
def Obligations.EveryHostEventKeepsTheInvariant : Prop :=
  ∀ (e : HostEvent) (s t : State), s.Inv → hostEvent e s = .next t → t.Inv

/-- The state after reset meets the invariant. -/
def Obligations.ResetMeetsTheInvariant : Prop := State.reset.Inv

/-- Two memories in canonical form that read alike at every address of `MEM` are equal data. -/
def Obligations.CanonicalMemoriesThatReadAlikeAreEqual : Prop :=
  ∀ (c : Config) (m m' : Memory), Memory.wf c m = true → Memory.wf c m' = true →
    (∀ a < 4096, Memory.read c m a = Memory.read c m' a) → m = m'

/-! ## Reset and the host's events -/

/-- 70_reset_and_hazards R230: `Load` of an image of at most 3584 bytes sets every element of state, from any state. -/
def Obligations.LoadSetsEveryElement : Prop :=
  ∀ (s : State) (image : List Byte), image.length ≤ 3584 →
    ∃ t, s.load image = .next t ∧
      (∀ a (h : a < 80), t.readMem a = s.cfg.font[a]) ∧
      (∀ j (h : j < image.length), t.readMem (512 + j) = image[j]) ∧
      (∀ a, 80 ≤ a → (a < 512 ∨ 512 + image.length ≤ a) → t.readMem a = 0#8) ∧
      (∀ q, t.getV q = 0#8) ∧ t.i = 0#16 ∧ t.pc = 512#16 ∧ t.sp = 0 ∧ t.dt = 0#8 ∧ t.st = 0#8 ∧ t.keys = 0#16 ∧
      t.kwPending = false ∧ t.kwTarget = 0#4 ∧ t.stop = false ∧ t.fault = none ∧
      ∀ r (h : r < 32), t.fb[r] = 0#64

/-- 70_reset_and_hazards R231: a longer image is refused. -/
def Obligations.OversizeImageIsRefused : Prop :=
  ∀ (s : State) (image : List Byte), 3584 < image.length → s.load image = .refused .romLoadError

/-- The reset state is what `Load` of an empty image leaves (70_reset_and_hazards R230, R233; the model's choice of image
and configuration is in logs 2 and 11). -/
def Obligations.ResetIsTheLoadOfAnEmptyImage : Prop :=
  ∀ s : State, s.cfg = defaultConfig → s.inputs = [] → s.inputCount = 0 → s.load [] = .next State.reset

/-- 40_step_cycle R99: `RequestStop` sets `STOP`; the next step does all that it would have done, and reports `continue` = 0,
unless it is a step in key-wait, which reports 1. -/
def Obligations.RequestStopOnlyChangesTheAnswer : Prop :=
  ∀ s t : State, step s = .next t →
    s.requestStop = { s with stop := true } ∧
    ∃ u, step s.requestStop = .next u ∧ u = { t with stop := true, contin := u.contin } ∧
      (s.fault = none → s.kwPending = true → u.contin = true) ∧
      (s.fault ≠ none ∨ s.kwPending = false → u.contin = false)

/-- 40_step_cycle R100: a run ends with the first step that outputs `continue` = 0 or raises a fault. No run has ended
before its first step; an event that happens in a run finds it not ended; an ended run has failed or halted, and it halts
only with `STOP` = 1 or `PC` at 4096 or above (R98). The end is not latched: a step depends on no output of the step
before. -/
def Obligations.ARunEndsWithItsFirstZeroOrFault : Prop :=
  (∀ (s : State) (image : List Byte) (r : Run), s.runAfter image [] = some r → r.ended = false ∧ r.steps = 0) ∧
  (∀ (s : State) (image : List Byte) (es : List HostEvent) (e : HostEvent) (r : Run),
    s.runAfter image (es ++ [e]) = some r →
    ∃ q, s.runAfter image es = some q ∧ q.ended = false ∧ hostEvent e q.state = .next r.state) ∧
  (∀ (s : State) (image : List Byte) (es : List HostEvent) (r : Run), s.runAfter image es = some r → r.ended = true →
    0 < r.steps ∧ (r.Failed ∨ r.Halted ∧ (r.state.stop = true ∨ 4096 ≤ r.state.pc.toNat))) ∧
  (∀ (s : State) (inp : StepInput) (c d : Bool), stepWith inp { s with contin := c, drawStrobe := d } = stepWith inp s)

/-- 10_state R29: a step sets `STOP` only by a `1nnn` that targets its own address, and no step clears it; `Load` does. -/
def Obligations.StopIsSetByJumpToItselfAndClearedByLoad : Prop :=
  (∀ s t : State, 13 ≤ s.cfg.pcWidth → step s = .next t →
    (t.stop = true ↔ s.stop = true ∨ ∃ nnn, s.nextInstr = some (.jp nnn) ∧ nnn.toNat = s.pc.toNat)) ∧
  (∀ s : State, s.requestStop.stop = true) ∧
  (∀ (s t : State) (image : List Byte), s.load image = .next t → t.stop = false)

/-- 45_timers_keypad R185, 40_step_cycle R94: polls without a key keep the machine in key-wait; the timers count each of
them, `PC`, the registers and memory stay, and every one answers `continue` = 1. -/
def Obligations.KeyWaitLastsUntilAKeyIsDown : Prop :=
  ∀ (s : State) (polls rest : List StepInput), s.fault = none → s.kwPending = true → s.inputs = polls ++ rest →
    (∀ inp ∈ polls, inp.keys = 0#16) →
    ∃ t : State, Host.Core.run Sys2Proof.core polls.length s = .next t ∧ t.kwPending = true ∧ t.kwTarget = s.kwTarget ∧
      t.fault = none ∧ t.pc = s.pc ∧ t.v = s.v ∧ t.i = s.i ∧ t.stack = s.stack ∧ t.mem = s.mem ∧ t.fb = s.fb ∧
      t.stop = s.stop ∧ t.dt.toNat = s.dt.toNat - polls.length ∧ t.st.toNat = s.st.toNat - polls.length ∧
      t.inputs = rest ∧ (polls ≠ [] → t.contin = true)

/-! ## Load-immediate, arithmetic, logic, shift and random instructions -/

/-- 42_alu R130, R131, R133 to R136, R142 and 45_timers_keypad R180: the instructions that write one register and no flag.
Each completes from every state, for every register. -/
def Obligations.OneRegisterInstructionsWriteTheirResult : Prop :=
  ∀ (s : State) (x y : Nibble) (kk : Byte),
    WritesRegister (.ldImm x kk) s x kk ∧
    WritesRegister (.addImm x kk) s x (BitVec.ofNat 8 (((s.getV x).toNat + kk.toNat) % 256)) ∧
    WritesRegister (.ldReg x y) s x (s.getV y) ∧
    WritesRegister (.or x y) s x (s.getV x ||| s.getV y) ∧
    WritesRegister (.and x y) s x (s.getV x &&& s.getV y) ∧
    WritesRegister (.xor x y) s x (s.getV x ^^^ s.getV y) ∧
    WritesRegister (.rnd x kk) s x (s.rndIn &&& kk) ∧
    WritesRegister (.ldVxDt x) s x s.dt

/-- 42_alu R137: the sum and the carry, for all registers, in either order of the two writes. -/
def Obligations.AddWritesSumAndCarry : Prop :=
  ∀ (s : State) (x y : Nibble), ∃ t, exec (.addReg x y) s = .next t ∧ t = { s with v := t.v } ∧
    ∀ q, t.getV q =
      if q = 15#4 ∧ (x ≠ 15#4 ∨ s.cfg.flagOrder = .flagLast) then
        (if (s.getV x).toNat + (s.getV y).toNat > 255 then 1#8 else 0#8)
      else if q = x then BitVec.ofNat 8 (((s.getV x).toNat + (s.getV y).toNat) % 256)
      else s.getV q

/-- 42_alu R138: the difference and the no-borrow flag, for all registers, in either order of the two writes. -/
def Obligations.SubtractWritesDifferenceAndNoBorrow : Prop :=
  ∀ (s : State) (x y : Nibble), ∃ t, exec (.sub x y) s = .next t ∧ t = { s with v := t.v } ∧
    ∀ q, t.getV q =
      if q = 15#4 ∧ (x ≠ 15#4 ∨ s.cfg.flagOrder = .flagLast) then
        (if (s.getV x).toNat ≥ (s.getV y).toNat then 1#8 else 0#8)
      else if q = x then BitVec.ofNat 8 (((s.getV x).toNat + 256 - (s.getV y).toNat) % 256)
      else s.getV q

/-- 42_alu R140: the reverse difference; `VF` is written only under `SUBN_VF` = `not_borrow`. -/
def Obligations.ReverseSubtractFollowsSubnVf : Prop :=
  ∀ (s : State) (x y : Nibble), ∃ t, exec (.subn x y) s = .next t ∧ t = { s with v := t.v } ∧
    ∀ q, t.getV q =
      if q = 15#4 ∧ s.cfg.subnVf = .notBorrow ∧ (x ≠ 15#4 ∨ s.cfg.flagOrder = .flagLast) then
        (if (s.getV y).toNat ≥ (s.getV x).toNat then 1#8 else 0#8)
      else if q = x then BitVec.ofNat 8 (((s.getV y).toNat + 256 - (s.getV x).toNat) % 256)
      else s.getV q

/-- 42_alu R139: `VF` gets bit 0 of `Vx`, then `Vx`, read again, moves right by one; with `x` = 15 `VF` ends as 0. -/
def Obligations.ShiftRightWritesFlagThenShifts : Prop :=
  ∀ (s : State) (x y : Nibble), ∃ t, exec (.shr x y) s = .next t ∧ t = { s with v := t.v } ∧
    ∀ q, t.getV q =
      if q = 15#4 then (if x = 15#4 then 0#8 else BitVec.ofNat 8 ((s.getV x).toNat % 2))
      else if q = x then BitVec.ofNat 8 ((s.getV x).toNat / 2)
      else s.getV q

/-- 42_alu R141: `VF` gets bit 7 of `Vx`, then `Vx`, read again, moves left by one; with `x` = 15 `VF` ends as 2 or 0. -/
def Obligations.ShiftLeftWritesFlagThenShifts : Prop :=
  ∀ (s : State) (x y : Nibble), ∃ t, exec (.shl x y) s = .next t ∧ t = { s with v := t.v } ∧
    ∀ q, t.getV q =
      if q = 15#4 then
        (if x = 15#4 then (if (s.getV x).toNat ≥ 0x80 then 2#8 else 0#8) else BitVec.ofNat 8 ((s.getV x).toNat / 128))
      else if q = x then BitVec.ofNat 8 ((s.getV x).toNat * 2 % 256)
      else s.getV q

/-! ## Control flow -/

/-- 41_control_flow R111, R115: the raw jump goes to `nnn`, the offset jump to `V0 + nnn`, not reduced at any width that
holds 4350 (10_state R23); neither sets `STOP`. That the sum is taken modulo two to the power `PC_WIDTH`, whatever the
width, is the model's choice (logs 3, 14). -/
def Obligations.RawAndOffsetJumpsSetPc : Prop :=
  ∀ (s : State) (nnn : Addr12),
    (∃ t, exec (.jp0 nnn) s = .next t ∧ t = { s with pc := t.pc } ∧ t.pc.toNat = nnn.toNat) ∧
    (∃ t, exec (.jpV0 nnn) s = .next t ∧ t = { s with pc := t.pc } ∧
      t.pc = BitVec.ofNat 16 (((s.getV 0#4).toNat + nnn.toNat) % 2 ^ s.cfg.pcWidth) ∧
      (13 ≤ s.cfg.pcWidth → t.pc.toNat = (s.getV 0#4).toNat + nnn.toNat))

/-- 41_control_flow R113: the jump goes to `nnn`, and sets `STOP` exactly when `nnn` is the address it was fetched from. -/
def Obligations.JumpToItselfSetsStop : Prop :=
  ∀ (s : State) (nnn : Addr12), ∃ t, exec (.jp nnn) s = .next t ∧ t = { s with pc := t.pc, stop := t.stop } ∧
    t.pc.toNat = nnn.toNat ∧ (nnn.toNat + 2 = s.pc.toNat → t.stop = true) ∧ (nnn.toNat + 2 ≠ s.pc.toNat → t.stop = s.stop)

/-- 41_control_flow R114, 10_state R25: a call pushes the address after it and jumps; on a full stack it raises
`StackOverflow` before any change. -/
def Obligations.CallPushesTheReturnAddress : Prop :=
  ∀ (s : State) (nnn : Addr12),
    (s.sp < s.cfg.stackDepth → ∃ t, exec (.call nnn) s = .next t ∧
      t = { s with stack := s.stack ++ [s.pc], pc := t.pc } ∧ t.pc.toNat = nnn.toNat ∧ t.sp = s.sp + 1) ∧
    (s.fault = none → s.sp = s.cfg.stackDepth → RaisesAtOnce (.call nnn) s .stackOverflow)

/-- 41_control_flow R112: a return pops the newest entry into `PC`; on an empty stack it raises `StackUnderflow` before any
change. -/
def Obligations.ReturnPopsTheNewestEntry : Prop :=
  ∀ s : State,
    (∀ (older : List Word) (w : Word), s.stack = older ++ [w] → exec .ret s = .next { s with stack := older, pc := w }) ∧
    (s.fault = none → s.sp = 0 → RaisesAtOnce .ret s .stackUnderflow)

/-- 41_control_flow R110, R112, R114: whatever the callee does besides, a return with the stack as the call left it resumes
at the address after the call with the stack as it was. -/
def Obligations.ReturnUndoesCall : Prop :=
  ∀ (s t u : State) (nnn : Addr12), s.sp < s.cfg.stackDepth → exec (.call nnn) s = .next t → u.stack = t.stack →
    exec .ret u = .next { u with stack := s.stack, pc := s.pc }

/-- 41_control_flow R116 to R119: the four skips. That a taken skip leaves `PC + 2` modulo two to the power `PC_WIDTH`,
whatever the width and `PC`, is the model's choice (logs 3, 14); at a width of 13 and more and every `PC` of a run it is
`PC + 2`, as the rules say. -/
def Obligations.SkipsTestTheirOperands : Prop :=
  ∀ (s : State) (x y n : Nibble) (kk : Byte),
    SkipsWhen (.seImm x kk) s (s.getV x = kk) ∧ SkipsWhen (.sneImm x kk) s (s.getV x ≠ kk) ∧
    SkipsWhen (.seReg x y n) s (s.getV x = s.getV y) ∧ SkipsWhen (.sneReg x y n) s (s.getV x ≠ s.getV y)

/-- 41_control_flow R120: the value of `PC` after each instruction that raises nothing, `s.pc` being `a + 2`, at every width
that holds 4350 and every `PC` up to it (10_state R23). -/
def Obligations.PcAfterEachInstruction : Prop :=
  ∀ (i : Instr) (s t : State), 13 ≤ s.cfg.pcWidth → s.pc.toNat ≤ 4350 →
    s.fault = none → exec i s = .next t → t.fault = none →
    (∀ nnn, i = .jp0 nnn ∨ i = .jp nnn ∨ i = .call nnn → t.pc.toNat = nnn.toNat) ∧
    (∀ nnn, i = .jpV0 nnn → t.pc.toNat = (s.getV 0#4).toNat + nnn.toNat) ∧
    (i = .ret → s.stack.getLast? = some t.pc) ∧
    (∀ x y n kk, i = .seImm x kk ∨ i = .sneImm x kk ∨ i = .seReg x y n ∨ i = .sneReg x y n ∨ i = .skp x ∨ i = .sknp x →
      t.pc.toNat = s.pc.toNat + 2 ∨ t.pc = s.pc) ∧
    ((∀ nnn, i ≠ .jp0 nnn ∧ i ≠ .jp nnn ∧ i ≠ .call nnn ∧ i ≠ .jpV0 nnn) → i ≠ .ret →
      (∀ x y n kk, i ≠ .seImm x kk ∧ i ≠ .sneImm x kk ∧ i ≠ .seReg x y n ∧ i ≠ .sneReg x y n ∧ i ≠ .skp x ∧ i ≠ .sknp x) →
      t.pc = s.pc)

/-! ## Address register and memory -/

/-- 43_index_memory R150, R152: `Annn` and `Fx29` write `I`, `Vx` not masked. -/
def Obligations.IndexLoadsWriteI : Prop :=
  ∀ (s : State) (nnn : Addr12) (x : Nibble),
    (∃ t, exec (.ldI nnn) s = .next t ∧ t = { s with i := t.i } ∧ t.i.toNat = nnn.toNat) ∧
    (∃ t, exec (.ldF x) s = .next t ∧ t = { s with i := t.i } ∧ t.i.toNat = (s.getV x).toNat * 5)

/-- 43_index_memory R151: `Fx1E` adds `Vx` to `I` modulo two to the power `I_WIDTH`, 65536 at the default of 16; `VF` is not
written. -/
def Obligations.IndexAddWrapsAtItsWidth : Prop :=
  ∀ (s : State) (x : Nibble), ∃ t, exec (.addI x) s = .next t ∧ t = { s with i := t.i } ∧
    (s.cfg.iWidth ≤ 16 → t.i.toNat = (s.i.toNat + (s.getV x).toNat) % 2 ^ s.cfg.iWidth) ∧
    (s.cfg.iWidth = 16 → t.i.toNat = (s.i.toNat + (s.getV x).toNat) % 65536)

/-- 43_index_memory R153: the three digits of `Vx`, the most significant at `I`; where they do not fit, those below 4096 are
written and `OutOfBoundsAccess` is raised. -/
def Obligations.BcdStoresThreeDigits : Prop :=
  ∀ (s : State) (x : Nibble),
    (s.i.toNat + 2 < 4096 → ∃ t, exec (.ldB x) s = .next t ∧ t = { s with mem := t.mem } ∧
      ∀ a, t.readMem a =
        if a = s.i.toNat then BitVec.ofNat 8 ((s.getV x).toNat / 100)
        else if a = s.i.toNat + 1 then BitVec.ofNat 8 ((s.getV x).toNat / 10 % 10)
        else if a = s.i.toNat + 2 then BitVec.ofNat 8 ((s.getV x).toNat % 10)
        else s.readMem a) ∧
    (s.fault = none → 4096 ≤ s.i.toNat + 2 → ∃ t, exec (.ldB x) s = .next t ∧
      t = { s with mem := t.mem, fault := some .outOfBoundsAccess, contin := false, drawStrobe := false } ∧
      ∀ a, t.readMem a =
        if a = s.i.toNat ∧ a < 4096 then BitVec.ofNat 8 ((s.getV x).toNat / 100)
        else if a = s.i.toNat + 1 ∧ a < 4096 then BitVec.ofNat 8 ((s.getV x).toNat / 10 % 10)
        else s.readMem a)

/-- 43_index_memory R154: `V0` to `Vx` at `I` and up, and no other byte; where they do not fit, those below 4096 are written
and `OutOfBoundsAccess` is raised. -/
def Obligations.RegistersAreStoredFromI : Prop :=
  ∀ (s : State) (x : Nibble),
    (s.i.toNat + x.toNat < 4096 → ∃ t, exec (.ldMemVx x) s = .next t ∧ t = { s with mem := t.mem } ∧
      ∀ a, t.readMem a =
        if s.i.toNat ≤ a ∧ a ≤ s.i.toNat + x.toNat then s.getV (BitVec.ofNat 4 (a - s.i.toNat)) else s.readMem a) ∧
    (s.fault = none → 4096 ≤ s.i.toNat + x.toNat → ∃ t, exec (.ldMemVx x) s = .next t ∧
      t = { s with mem := t.mem, fault := some .outOfBoundsAccess, contin := false, drawStrobe := false } ∧
      ∀ a, t.readMem a =
        if s.i.toNat ≤ a ∧ a < 4096 then s.getV (BitVec.ofNat 4 (a - s.i.toNat)) else s.readMem a)

/-- 43_index_memory R155: the bytes at `I` and up go to `V0` to `Vx`, and to no other register; where one lies outside
`MEM`, the registers before it are loaded and `OutOfBoundsAccess` is raised. -/
def Obligations.RegistersAreLoadedFromI : Prop :=
  ∀ (s : State) (x : Nibble),
    (s.i.toNat + x.toNat < 4096 → ∃ t, exec (.ldVxMem x) s = .next t ∧ t = { s with v := t.v } ∧
      ∀ q, t.getV q = if q.toNat ≤ x.toNat then s.readMem (s.i.toNat + q.toNat) else s.getV q) ∧
    (s.fault = none → 4096 ≤ s.i.toNat + x.toNat → ∃ t, exec (.ldVxMem x) s = .next t ∧
      t = { s with v := t.v, fault := some .outOfBoundsAccess, contin := false, drawStrobe := false } ∧
      ∀ q, t.getV q = if s.i.toNat + q.toNat < 4096 then s.readMem (s.i.toNat + q.toNat) else s.getV q)

/-- 43_index_memory R154, R155, R156: a load at the same `I` brings back what a store put there, whatever else changed. -/
def Obligations.LoadAfterStoreRestoresRegisters : Prop :=
  ∀ (s t u : State) (x : Nibble), s.i.toNat + x.toNat < 4096 → exec (.ldMemVx x) s = .next t →
    u.mem = t.mem → u.cfg = t.cfg → u.i = t.i →
    ∃ w, exec (.ldVxMem x) u = .next w ∧ ∀ q : Nibble, q.toNat ≤ x.toNat → w.getV q = s.getV q

/-- 20_memory R61: two bytes that `Fx55` stored are the bytes of the next fetch at their address. -/
def Obligations.StoredBytesAreFetched : Prop :=
  ∀ (s t u : State) (x : Nibble) (k : Nat), s.i.toNat + x.toNat < 4096 → k < x.toNat → exec (.ldMemVx x) s = .next t →
    u.mem = t.mem → u.cfg = t.cfg → u.pc.toNat = s.i.toNat + k → u.fault = none → u.kwPending = false →
    u.nextInstr = some (decodeWord (wordOfBytes (s.getV (BitVec.ofNat 4 k)) (s.getV (BitVec.ofNat 4 (k + 1)))))

/-! ## Display -/

/-- 44_display R170: every row becomes 0, and nothing else changes. -/
def Obligations.ClearZeroesEveryRow : Prop :=
  ∀ s : State, ∃ t, exec .cls s = .next t ∧ t = { s with fb := t.fb } ∧ ∀ r (h : r < 32), t.fb[r] = 0#64

/-- 44_display R171, R172, pixel by pixel: every pixel of the display is the exclusive or of what it was and the sprite's
pixel there; `VF` is 1 exactly when a set pixel is cleared; `draw_strobe` is raised; nothing else changes and nothing
faults. -/
def Obligations.DrawXorsTheSpriteAndReportsCollision : Prop :=
  ∀ (s : State) (x y n : Nibble), ∃ t, exec (.drw x y n) s = .next t ∧
    t = { s with fb := t.fb, v := t.v, drawStrobe := true } ∧
    (∀ r c, t.pixel r c = (s.pixel r c ^^ s.spritePixel x y n r c)) ∧
    (∀ q, q ≠ 15#4 → t.getV q = s.getV q) ∧
    ((∃ r c, s.pixel r c = true ∧ s.spritePixel x y n r c = true) → t.getV 15#4 = 1#8) ∧
    ((∀ r c, ¬ (s.pixel r c = true ∧ s.spritePixel x y n r c = true)) → t.getV 15#4 = 0#8)

/-- 44_display R171, the document's property: drawing twice restores the display, and the second `VF` is 1 exactly when the
first draw turned a pixel on. The coordinates' registers are not `VF`, which the first draw overwrites. -/
def Obligations.DrawingTwiceRestoresTheDisplay : Prop :=
  ∀ (s t : State) (x y n : Nibble), x ≠ 15#4 → y ≠ 15#4 → exec (.drw x y n) s = .next t →
    ∃ u, exec (.drw x y n) t = .next u ∧ u.fb = s.fb ∧
      (u.getV 15#4 = 1#8 ↔ ∃ r c, s.pixel r c = false ∧ t.pixel r c = true) ∧
      (u.getV 15#4 = 1#8 ∨ u.getV 15#4 = 0#8)

/-! ## Timers, keypad, reserved words -/

/-- 45_timers_keypad R181, R182: the two timers are set from `Vx`. -/
def Obligations.TimersAreSetFromVx : Prop :=
  ∀ (s : State) (x : Nibble),
    exec (.ldDtVx x) s = .next { s with dt := s.getV x } ∧ exec (.ldStVx x) s = .next { s with st := s.getV x }

/-- 45_timers_keypad R183, R184: the key skips test the key that `Vx` names; an index above 15 raises `OutOfBoundsAccess`, or
is taken modulo 16, by `KEY_INDEX_OOR`. That a taken skip leaves `PC + 2` modulo two to the power `PC_WIDTH`, whatever the
width and `PC`, is the model's choice (logs 3, 14); at a width of 13 and more and every `PC` of a run it is `PC + 2`, as
the rules say. -/
def Obligations.KeySkipsTestTheNamedKey : Prop :=
  ∀ (s : State) (x : Nibble),
    ((s.getV x).toNat ≤ 15 ∨ s.cfg.keyIndexOor = .mask4 →
      SkipsWhen (.skp x) s (s.keys.getLsbD ((s.getV x).toNat % 16) = true) ∧
      SkipsWhen (.sknp x) s (s.keys.getLsbD ((s.getV x).toNat % 16) = false)) ∧
    (s.fault = none → 15 < (s.getV x).toNat → s.cfg.keyIndexOor = .fault →
      RaisesAtOnce (.skp x) s .outOfBoundsAccess ∧ RaisesAtOnce (.sknp x) s .outOfBoundsAccess)

/-- 45_timers_keypad R185: `Fx0A` enters the wait, whatever `KEYS` holds, and changes nothing else; the next step is a poll at
the same `PC`. -/
def Obligations.WaitForKeyEntersTheWait : Prop :=
  ∀ (s : State) (x : Nibble), ∃ t, exec (.ldVxK x) s = .next t ∧ t = { s with kwPending := true, kwTarget := x } ∧
    (s.fault = none → ∀ u, step t.finish = .next u → u.pc = s.pc ∧ u.contin = true)

/-- 30_encoding R78, R79: an illegal class-8 word raises `UnsupportedOpcode`; an undefined word of class E or F raises it or
does nothing, by `RESERVED_EF`. -/
def Obligations.ReservedWordsRaiseOrDoNothing : Prop :=
  ∀ (s : State) (x y n : Nibble) (kk : Byte),
    (s.fault = none → RaisesAtOnce (.reserved8 x y n) s .unsupportedOpcode) ∧
    (s.fault = none → s.cfg.reservedEf = .fault →
      RaisesAtOnce (.reservedE x kk) s .unsupportedOpcode ∧ RaisesAtOnce (.reservedF x kk) s .unsupportedOpcode) ∧
    (s.cfg.reservedEf = .nop → exec (.reservedE x kk) s = .next s ∧ exec (.reservedF x kk) s = .next s)

/-! ## Rules of the whole machine -/

/-- 10_state R35, R37, 43_index_memory R157, 44_display R173: what an instruction may change beside `PC`, the registers and a
fault: each element only by the instructions the tables name. -/
def Obligations.ElementsChangeOnlyByTheirWriters : Prop :=
  ∀ (i : Instr) (s t : State), exec i s = .next t →
    (t.mem ≠ s.mem → ∃ x, i = .ldB x ∨ i = .ldMemVx x) ∧
    (t.fb ≠ s.fb → i = .cls ∨ ∃ x y n, i = .drw x y n) ∧
    (t.stack ≠ s.stack → i = .ret ∨ ∃ nnn, i = .call nnn) ∧
    (t.i ≠ s.i → (∃ nnn, i = .ldI nnn) ∨ ∃ x, i = .addI x ∨ i = .ldF x) ∧
    (t.dt ≠ s.dt → ∃ x, i = .ldDtVx x) ∧
    (t.st ≠ s.st → ∃ x, i = .ldStVx x) ∧
    (t.kwPending ≠ s.kwPending ∨ t.kwTarget ≠ s.kwTarget → ∃ x, i = .ldVxK x) ∧
    (t.stop ≠ s.stop → ∃ nnn, i = .jp nnn) ∧
    t.keys = s.keys ∧ t.cfg = s.cfg ∧ t.rndIn = s.rndIn ∧ t.inputs = s.inputs ∧ t.inputCount = s.inputCount

/-- 41_control_flow R110 and 10_state R37: an instruction that names no destination register changes no register. -/
def Obligations.RegistersChangeOnlyByTheirWriters : Prop :=
  ∀ (i : Instr) (s t : State) (q : Nibble), exec i s = .next t → t.getV q ≠ s.getV q →
    (∃ y kk, i = .ldImm q kk ∨ i = .addImm q kk ∨ i = .rnd q kk ∨ i = .ldReg q y ∨ i = .or q y ∨ i = .and q y ∨
      i = .xor q y ∨ i = .addReg q y ∨ i = .sub q y ∨ i = .shr q y ∨ i = .subn q y ∨ i = .shl q y ∨ i = .ldVxDt q) ∨
    (∃ x, i = .ldVxMem x ∧ q.toNat ≤ x.toNat) ∨
    (q = 15#4 ∧ ∃ x y n, i = .addReg x y ∨ i = .sub x y ∨ i = .shr x y ∨ i = .shl x y ∨ i = .drw x y n ∨
      (i = .subn x y ∧ s.cfg.subnVf = .notBorrow))

/-- 42_alu R142: the byte on `rnd_in` reaches the machine through `Cxkk` alone. -/
def Obligations.RandomByteReachesOnlyRnd : Prop :=
  ∀ (i : Instr) (s t : State) (b : Byte), (∀ x kk, i ≠ .rnd x kk) → exec i s = .next t →
    exec i { s with rndIn := b } = .next { t with rndIn := b }

/-- 10_state R26, 45_timers_keypad R182: nothing reads `ST`: a step from two states that differ in `ST` alone leaves states
that differ in `ST` alone. -/
def Obligations.SoundTimerIsNeverRead : Prop :=
  ∀ (s t : State) (b : Byte), step s = .next t →
    ∃ u, step { s with st := b } = .next u ∧ u = { t with st := u.st }
end

