-- ==== Sys2Proof/Laws/State.lean ====
section
/-!
SUPPORT. What each update of the state does to each field, by definition, so that no proof unfolds an update; and the two
views `getV` and `readMem` under each update.
-/

namespace Sys2Proof.Machine

variable (s : State)

/-! ## `setV` -/

@[simp] theorem State.setV_cfg (r : Nibble) (b : Byte) : (s.setV r b).cfg = s.cfg := rfl
@[simp] theorem State.setV_v (r : Nibble) (b : Byte) : (s.setV r b).v = s.v.set r.toNat b r.isLt := rfl
@[simp] theorem State.setV_pc (r : Nibble) (b : Byte) : (s.setV r b).pc = s.pc := rfl
@[simp] theorem State.setV_i (r : Nibble) (b : Byte) : (s.setV r b).i = s.i := rfl
@[simp] theorem State.setV_stack (r : Nibble) (b : Byte) : (s.setV r b).stack = s.stack := rfl
@[simp] theorem State.setV_dt (r : Nibble) (b : Byte) : (s.setV r b).dt = s.dt := rfl
@[simp] theorem State.setV_st (r : Nibble) (b : Byte) : (s.setV r b).st = s.st := rfl
@[simp] theorem State.setV_keys (r : Nibble) (b : Byte) : (s.setV r b).keys = s.keys := rfl
@[simp] theorem State.setV_kwPending (r : Nibble) (b : Byte) : (s.setV r b).kwPending = s.kwPending := rfl
@[simp] theorem State.setV_kwTarget (r : Nibble) (b : Byte) : (s.setV r b).kwTarget = s.kwTarget := rfl
@[simp] theorem State.setV_stop (r : Nibble) (b : Byte) : (s.setV r b).stop = s.stop := rfl
@[simp] theorem State.setV_fault (r : Nibble) (b : Byte) : (s.setV r b).fault = s.fault := rfl
@[simp] theorem State.setV_mem (r : Nibble) (b : Byte) : (s.setV r b).mem = s.mem := rfl
@[simp] theorem State.setV_fb (r : Nibble) (b : Byte) : (s.setV r b).fb = s.fb := rfl
@[simp] theorem State.setV_contin (r : Nibble) (b : Byte) : (s.setV r b).contin = s.contin := rfl
@[simp] theorem State.setV_drawStrobe (r : Nibble) (b : Byte) : (s.setV r b).drawStrobe = s.drawStrobe := rfl
@[simp] theorem State.setV_rndIn (r : Nibble) (b : Byte) : (s.setV r b).rndIn = s.rndIn := rfl
@[simp] theorem State.setV_inputs (r : Nibble) (b : Byte) : (s.setV r b).inputs = s.inputs := rfl
@[simp] theorem State.setV_inputCount (r : Nibble) (b : Byte) : (s.setV r b).inputCount = s.inputCount := rfl
@[simp] theorem State.setV_readMem (r : Nibble) (b : Byte) (k : Nat) : (s.setV r b).readMem k = s.readMem k := rfl

/-! ## `setFlag` -/

@[simp] theorem State.setFlag_cfg (b : Byte) : (s.setFlag b).cfg = s.cfg := rfl
@[simp] theorem State.setFlag_v (b : Byte) : (s.setFlag b).v = s.v.set 15 b := rfl
@[simp] theorem State.setFlag_pc (b : Byte) : (s.setFlag b).pc = s.pc := rfl
@[simp] theorem State.setFlag_i (b : Byte) : (s.setFlag b).i = s.i := rfl
@[simp] theorem State.setFlag_stack (b : Byte) : (s.setFlag b).stack = s.stack := rfl
@[simp] theorem State.setFlag_dt (b : Byte) : (s.setFlag b).dt = s.dt := rfl
@[simp] theorem State.setFlag_st (b : Byte) : (s.setFlag b).st = s.st := rfl
@[simp] theorem State.setFlag_keys (b : Byte) : (s.setFlag b).keys = s.keys := rfl
@[simp] theorem State.setFlag_kwPending (b : Byte) : (s.setFlag b).kwPending = s.kwPending := rfl
@[simp] theorem State.setFlag_kwTarget (b : Byte) : (s.setFlag b).kwTarget = s.kwTarget := rfl
@[simp] theorem State.setFlag_stop (b : Byte) : (s.setFlag b).stop = s.stop := rfl
@[simp] theorem State.setFlag_fault (b : Byte) : (s.setFlag b).fault = s.fault := rfl
@[simp] theorem State.setFlag_mem (b : Byte) : (s.setFlag b).mem = s.mem := rfl
@[simp] theorem State.setFlag_fb (b : Byte) : (s.setFlag b).fb = s.fb := rfl
@[simp] theorem State.setFlag_contin (b : Byte) : (s.setFlag b).contin = s.contin := rfl
@[simp] theorem State.setFlag_drawStrobe (b : Byte) : (s.setFlag b).drawStrobe = s.drawStrobe := rfl
@[simp] theorem State.setFlag_rndIn (b : Byte) : (s.setFlag b).rndIn = s.rndIn := rfl
@[simp] theorem State.setFlag_inputs (b : Byte) : (s.setFlag b).inputs = s.inputs := rfl
@[simp] theorem State.setFlag_inputCount (b : Byte) : (s.setFlag b).inputCount = s.inputCount := rfl
@[simp] theorem State.setFlag_readMem (b : Byte) (k : Nat) : (s.setFlag b).readMem k = s.readMem k := rfl

/-! ## `setPc` -/

@[simp] theorem State.setPc_cfg (w : Word) : (s.setPc w).cfg = s.cfg := rfl
@[simp] theorem State.setPc_v (w : Word) : (s.setPc w).v = s.v := rfl
@[simp] theorem State.setPc_pc (w : Word) : (s.setPc w).pc = w := rfl
@[simp] theorem State.setPc_i (w : Word) : (s.setPc w).i = s.i := rfl
@[simp] theorem State.setPc_stack (w : Word) : (s.setPc w).stack = s.stack := rfl
@[simp] theorem State.setPc_dt (w : Word) : (s.setPc w).dt = s.dt := rfl
@[simp] theorem State.setPc_st (w : Word) : (s.setPc w).st = s.st := rfl
@[simp] theorem State.setPc_keys (w : Word) : (s.setPc w).keys = s.keys := rfl
@[simp] theorem State.setPc_kwPending (w : Word) : (s.setPc w).kwPending = s.kwPending := rfl
@[simp] theorem State.setPc_kwTarget (w : Word) : (s.setPc w).kwTarget = s.kwTarget := rfl
@[simp] theorem State.setPc_stop (w : Word) : (s.setPc w).stop = s.stop := rfl
@[simp] theorem State.setPc_fault (w : Word) : (s.setPc w).fault = s.fault := rfl
@[simp] theorem State.setPc_mem (w : Word) : (s.setPc w).mem = s.mem := rfl
@[simp] theorem State.setPc_fb (w : Word) : (s.setPc w).fb = s.fb := rfl
@[simp] theorem State.setPc_contin (w : Word) : (s.setPc w).contin = s.contin := rfl
@[simp] theorem State.setPc_drawStrobe (w : Word) : (s.setPc w).drawStrobe = s.drawStrobe := rfl
@[simp] theorem State.setPc_rndIn (w : Word) : (s.setPc w).rndIn = s.rndIn := rfl
@[simp] theorem State.setPc_inputs (w : Word) : (s.setPc w).inputs = s.inputs := rfl
@[simp] theorem State.setPc_inputCount (w : Word) : (s.setPc w).inputCount = s.inputCount := rfl
@[simp] theorem State.setPc_readMem (w : Word) (k : Nat) : (s.setPc w).readMem k = s.readMem k := rfl
@[simp] theorem State.setPc_getV (w : Word) (q : Nibble) : (s.setPc w).getV q = s.getV q := rfl

/-! ## `setI` -/

@[simp] theorem State.setI_cfg (w : Word) : (s.setI w).cfg = s.cfg := rfl
@[simp] theorem State.setI_v (w : Word) : (s.setI w).v = s.v := rfl
@[simp] theorem State.setI_pc (w : Word) : (s.setI w).pc = s.pc := rfl
@[simp] theorem State.setI_i (w : Word) : (s.setI w).i = w := rfl
@[simp] theorem State.setI_stack (w : Word) : (s.setI w).stack = s.stack := rfl
@[simp] theorem State.setI_dt (w : Word) : (s.setI w).dt = s.dt := rfl
@[simp] theorem State.setI_st (w : Word) : (s.setI w).st = s.st := rfl
@[simp] theorem State.setI_keys (w : Word) : (s.setI w).keys = s.keys := rfl
@[simp] theorem State.setI_kwPending (w : Word) : (s.setI w).kwPending = s.kwPending := rfl
@[simp] theorem State.setI_kwTarget (w : Word) : (s.setI w).kwTarget = s.kwTarget := rfl
@[simp] theorem State.setI_stop (w : Word) : (s.setI w).stop = s.stop := rfl
@[simp] theorem State.setI_fault (w : Word) : (s.setI w).fault = s.fault := rfl
@[simp] theorem State.setI_mem (w : Word) : (s.setI w).mem = s.mem := rfl
@[simp] theorem State.setI_fb (w : Word) : (s.setI w).fb = s.fb := rfl
@[simp] theorem State.setI_contin (w : Word) : (s.setI w).contin = s.contin := rfl
@[simp] theorem State.setI_drawStrobe (w : Word) : (s.setI w).drawStrobe = s.drawStrobe := rfl
@[simp] theorem State.setI_rndIn (w : Word) : (s.setI w).rndIn = s.rndIn := rfl
@[simp] theorem State.setI_inputs (w : Word) : (s.setI w).inputs = s.inputs := rfl
@[simp] theorem State.setI_inputCount (w : Word) : (s.setI w).inputCount = s.inputCount := rfl
@[simp] theorem State.setI_readMem (w : Word) (k : Nat) : (s.setI w).readMem k = s.readMem k := rfl
@[simp] theorem State.setI_getV (w : Word) (q : Nibble) : (s.setI w).getV q = s.getV q := rfl

/-! ## `setDt` -/

@[simp] theorem State.setDt_cfg (b : Byte) : (s.setDt b).cfg = s.cfg := rfl
@[simp] theorem State.setDt_v (b : Byte) : (s.setDt b).v = s.v := rfl
@[simp] theorem State.setDt_pc (b : Byte) : (s.setDt b).pc = s.pc := rfl
@[simp] theorem State.setDt_i (b : Byte) : (s.setDt b).i = s.i := rfl
@[simp] theorem State.setDt_stack (b : Byte) : (s.setDt b).stack = s.stack := rfl
@[simp] theorem State.setDt_dt (b : Byte) : (s.setDt b).dt = b := rfl
@[simp] theorem State.setDt_st (b : Byte) : (s.setDt b).st = s.st := rfl
@[simp] theorem State.setDt_keys (b : Byte) : (s.setDt b).keys = s.keys := rfl
@[simp] theorem State.setDt_kwPending (b : Byte) : (s.setDt b).kwPending = s.kwPending := rfl
@[simp] theorem State.setDt_kwTarget (b : Byte) : (s.setDt b).kwTarget = s.kwTarget := rfl
@[simp] theorem State.setDt_stop (b : Byte) : (s.setDt b).stop = s.stop := rfl
@[simp] theorem State.setDt_fault (b : Byte) : (s.setDt b).fault = s.fault := rfl
@[simp] theorem State.setDt_mem (b : Byte) : (s.setDt b).mem = s.mem := rfl
@[simp] theorem State.setDt_fb (b : Byte) : (s.setDt b).fb = s.fb := rfl
@[simp] theorem State.setDt_contin (b : Byte) : (s.setDt b).contin = s.contin := rfl
@[simp] theorem State.setDt_drawStrobe (b : Byte) : (s.setDt b).drawStrobe = s.drawStrobe := rfl
@[simp] theorem State.setDt_rndIn (b : Byte) : (s.setDt b).rndIn = s.rndIn := rfl
@[simp] theorem State.setDt_inputs (b : Byte) : (s.setDt b).inputs = s.inputs := rfl
@[simp] theorem State.setDt_inputCount (b : Byte) : (s.setDt b).inputCount = s.inputCount := rfl
@[simp] theorem State.setDt_readMem (b : Byte) (k : Nat) : (s.setDt b).readMem k = s.readMem k := rfl
@[simp] theorem State.setDt_getV (b : Byte) (q : Nibble) : (s.setDt b).getV q = s.getV q := rfl

/-! ## `setSt` -/

@[simp] theorem State.setSt_cfg (b : Byte) : (s.setSt b).cfg = s.cfg := rfl
@[simp] theorem State.setSt_v (b : Byte) : (s.setSt b).v = s.v := rfl
@[simp] theorem State.setSt_pc (b : Byte) : (s.setSt b).pc = s.pc := rfl
@[simp] theorem State.setSt_i (b : Byte) : (s.setSt b).i = s.i := rfl
@[simp] theorem State.setSt_stack (b : Byte) : (s.setSt b).stack = s.stack := rfl
@[simp] theorem State.setSt_dt (b : Byte) : (s.setSt b).dt = s.dt := rfl
@[simp] theorem State.setSt_st (b : Byte) : (s.setSt b).st = b := rfl
@[simp] theorem State.setSt_keys (b : Byte) : (s.setSt b).keys = s.keys := rfl
@[simp] theorem State.setSt_kwPending (b : Byte) : (s.setSt b).kwPending = s.kwPending := rfl
@[simp] theorem State.setSt_kwTarget (b : Byte) : (s.setSt b).kwTarget = s.kwTarget := rfl
@[simp] theorem State.setSt_stop (b : Byte) : (s.setSt b).stop = s.stop := rfl
@[simp] theorem State.setSt_fault (b : Byte) : (s.setSt b).fault = s.fault := rfl
@[simp] theorem State.setSt_mem (b : Byte) : (s.setSt b).mem = s.mem := rfl
@[simp] theorem State.setSt_fb (b : Byte) : (s.setSt b).fb = s.fb := rfl
@[simp] theorem State.setSt_contin (b : Byte) : (s.setSt b).contin = s.contin := rfl
@[simp] theorem State.setSt_drawStrobe (b : Byte) : (s.setSt b).drawStrobe = s.drawStrobe := rfl
@[simp] theorem State.setSt_rndIn (b : Byte) : (s.setSt b).rndIn = s.rndIn := rfl
@[simp] theorem State.setSt_inputs (b : Byte) : (s.setSt b).inputs = s.inputs := rfl
@[simp] theorem State.setSt_inputCount (b : Byte) : (s.setSt b).inputCount = s.inputCount := rfl
@[simp] theorem State.setSt_readMem (b : Byte) (k : Nat) : (s.setSt b).readMem k = s.readMem k := rfl
@[simp] theorem State.setSt_getV (b : Byte) (q : Nibble) : (s.setSt b).getV q = s.getV q := rfl

/-! ## `setFb` -/

@[simp] theorem State.setFb_cfg (f : Vector Row 32) : (s.setFb f).cfg = s.cfg := rfl
@[simp] theorem State.setFb_v (f : Vector Row 32) : (s.setFb f).v = s.v := rfl
@[simp] theorem State.setFb_pc (f : Vector Row 32) : (s.setFb f).pc = s.pc := rfl
@[simp] theorem State.setFb_i (f : Vector Row 32) : (s.setFb f).i = s.i := rfl
@[simp] theorem State.setFb_stack (f : Vector Row 32) : (s.setFb f).stack = s.stack := rfl
@[simp] theorem State.setFb_dt (f : Vector Row 32) : (s.setFb f).dt = s.dt := rfl
@[simp] theorem State.setFb_st (f : Vector Row 32) : (s.setFb f).st = s.st := rfl
@[simp] theorem State.setFb_keys (f : Vector Row 32) : (s.setFb f).keys = s.keys := rfl
@[simp] theorem State.setFb_kwPending (f : Vector Row 32) : (s.setFb f).kwPending = s.kwPending := rfl
@[simp] theorem State.setFb_kwTarget (f : Vector Row 32) : (s.setFb f).kwTarget = s.kwTarget := rfl
@[simp] theorem State.setFb_stop (f : Vector Row 32) : (s.setFb f).stop = s.stop := rfl
@[simp] theorem State.setFb_fault (f : Vector Row 32) : (s.setFb f).fault = s.fault := rfl
@[simp] theorem State.setFb_mem (f : Vector Row 32) : (s.setFb f).mem = s.mem := rfl
@[simp] theorem State.setFb_fb (f : Vector Row 32) : (s.setFb f).fb = f := rfl
@[simp] theorem State.setFb_contin (f : Vector Row 32) : (s.setFb f).contin = s.contin := rfl
@[simp] theorem State.setFb_drawStrobe (f : Vector Row 32) : (s.setFb f).drawStrobe = s.drawStrobe := rfl
@[simp] theorem State.setFb_rndIn (f : Vector Row 32) : (s.setFb f).rndIn = s.rndIn := rfl
@[simp] theorem State.setFb_inputs (f : Vector Row 32) : (s.setFb f).inputs = s.inputs := rfl
@[simp] theorem State.setFb_inputCount (f : Vector Row 32) : (s.setFb f).inputCount = s.inputCount := rfl
@[simp] theorem State.setFb_readMem (f : Vector Row 32) (k : Nat) : (s.setFb f).readMem k = s.readMem k := rfl
@[simp] theorem State.setFb_getV (f : Vector Row 32) (q : Nibble) : (s.setFb f).getV q = s.getV q := rfl

/-! ## `setStop` -/

@[simp] theorem State.setStop_cfg : (s.setStop).cfg = s.cfg := rfl
@[simp] theorem State.setStop_v : (s.setStop).v = s.v := rfl
@[simp] theorem State.setStop_pc : (s.setStop).pc = s.pc := rfl
@[simp] theorem State.setStop_i : (s.setStop).i = s.i := rfl
@[simp] theorem State.setStop_stack : (s.setStop).stack = s.stack := rfl
@[simp] theorem State.setStop_dt : (s.setStop).dt = s.dt := rfl
@[simp] theorem State.setStop_st : (s.setStop).st = s.st := rfl
@[simp] theorem State.setStop_keys : (s.setStop).keys = s.keys := rfl
@[simp] theorem State.setStop_kwPending : (s.setStop).kwPending = s.kwPending := rfl
@[simp] theorem State.setStop_kwTarget : (s.setStop).kwTarget = s.kwTarget := rfl
@[simp] theorem State.setStop_stop : (s.setStop).stop = true := rfl
@[simp] theorem State.setStop_fault : (s.setStop).fault = s.fault := rfl
@[simp] theorem State.setStop_mem : (s.setStop).mem = s.mem := rfl
@[simp] theorem State.setStop_fb : (s.setStop).fb = s.fb := rfl
@[simp] theorem State.setStop_contin : (s.setStop).contin = s.contin := rfl
@[simp] theorem State.setStop_drawStrobe : (s.setStop).drawStrobe = s.drawStrobe := rfl
@[simp] theorem State.setStop_rndIn : (s.setStop).rndIn = s.rndIn := rfl
@[simp] theorem State.setStop_inputs : (s.setStop).inputs = s.inputs := rfl
@[simp] theorem State.setStop_inputCount : (s.setStop).inputCount = s.inputCount := rfl
@[simp] theorem State.setStop_readMem (k : Nat) : (s.setStop).readMem k = s.readMem k := rfl
@[simp] theorem State.setStop_getV (q : Nibble) : (s.setStop).getV q = s.getV q := rfl

/-! ## `enterKeyWait` -/

@[simp] theorem State.enterKeyWait_cfg (x : Nibble) : (s.enterKeyWait x).cfg = s.cfg := rfl
@[simp] theorem State.enterKeyWait_v (x : Nibble) : (s.enterKeyWait x).v = s.v := rfl
@[simp] theorem State.enterKeyWait_pc (x : Nibble) : (s.enterKeyWait x).pc = s.pc := rfl
@[simp] theorem State.enterKeyWait_i (x : Nibble) : (s.enterKeyWait x).i = s.i := rfl
@[simp] theorem State.enterKeyWait_stack (x : Nibble) : (s.enterKeyWait x).stack = s.stack := rfl
@[simp] theorem State.enterKeyWait_dt (x : Nibble) : (s.enterKeyWait x).dt = s.dt := rfl
@[simp] theorem State.enterKeyWait_st (x : Nibble) : (s.enterKeyWait x).st = s.st := rfl
@[simp] theorem State.enterKeyWait_keys (x : Nibble) : (s.enterKeyWait x).keys = s.keys := rfl
@[simp] theorem State.enterKeyWait_kwPending (x : Nibble) : (s.enterKeyWait x).kwPending = true := rfl
@[simp] theorem State.enterKeyWait_kwTarget (x : Nibble) : (s.enterKeyWait x).kwTarget = x := rfl
@[simp] theorem State.enterKeyWait_stop (x : Nibble) : (s.enterKeyWait x).stop = s.stop := rfl
@[simp] theorem State.enterKeyWait_fault (x : Nibble) : (s.enterKeyWait x).fault = s.fault := rfl
@[simp] theorem State.enterKeyWait_mem (x : Nibble) : (s.enterKeyWait x).mem = s.mem := rfl
@[simp] theorem State.enterKeyWait_fb (x : Nibble) : (s.enterKeyWait x).fb = s.fb := rfl
@[simp] theorem State.enterKeyWait_contin (x : Nibble) : (s.enterKeyWait x).contin = s.contin := rfl
@[simp] theorem State.enterKeyWait_drawStrobe (x : Nibble) : (s.enterKeyWait x).drawStrobe = s.drawStrobe := rfl
@[simp] theorem State.enterKeyWait_rndIn (x : Nibble) : (s.enterKeyWait x).rndIn = s.rndIn := rfl
@[simp] theorem State.enterKeyWait_inputs (x : Nibble) : (s.enterKeyWait x).inputs = s.inputs := rfl
@[simp] theorem State.enterKeyWait_inputCount (x : Nibble) : (s.enterKeyWait x).inputCount = s.inputCount := rfl
@[simp] theorem State.enterKeyWait_readMem (x : Nibble) (k : Nat) : (s.enterKeyWait x).readMem k = s.readMem k := rfl
@[simp] theorem State.enterKeyWait_getV (x : Nibble) (q : Nibble) : (s.enterKeyWait x).getV q = s.getV q := rfl

/-! ## `strobe` -/

@[simp] theorem State.strobe_cfg : (s.strobe).cfg = s.cfg := rfl
@[simp] theorem State.strobe_v : (s.strobe).v = s.v := rfl
@[simp] theorem State.strobe_pc : (s.strobe).pc = s.pc := rfl
@[simp] theorem State.strobe_i : (s.strobe).i = s.i := rfl
@[simp] theorem State.strobe_stack : (s.strobe).stack = s.stack := rfl
@[simp] theorem State.strobe_dt : (s.strobe).dt = s.dt := rfl
@[simp] theorem State.strobe_st : (s.strobe).st = s.st := rfl
@[simp] theorem State.strobe_keys : (s.strobe).keys = s.keys := rfl
@[simp] theorem State.strobe_kwPending : (s.strobe).kwPending = s.kwPending := rfl
@[simp] theorem State.strobe_kwTarget : (s.strobe).kwTarget = s.kwTarget := rfl
@[simp] theorem State.strobe_stop : (s.strobe).stop = s.stop := rfl
@[simp] theorem State.strobe_fault : (s.strobe).fault = s.fault := rfl
@[simp] theorem State.strobe_mem : (s.strobe).mem = s.mem := rfl
@[simp] theorem State.strobe_fb : (s.strobe).fb = s.fb := rfl
@[simp] theorem State.strobe_contin : (s.strobe).contin = s.contin := rfl
@[simp] theorem State.strobe_drawStrobe : (s.strobe).drawStrobe = true := rfl
@[simp] theorem State.strobe_rndIn : (s.strobe).rndIn = s.rndIn := rfl
@[simp] theorem State.strobe_inputs : (s.strobe).inputs = s.inputs := rfl
@[simp] theorem State.strobe_inputCount : (s.strobe).inputCount = s.inputCount := rfl
@[simp] theorem State.strobe_readMem (k : Nat) : (s.strobe).readMem k = s.readMem k := rfl
@[simp] theorem State.strobe_getV (q : Nibble) : (s.strobe).getV q = s.getV q := rfl

/-! ## `writeMem` -/

@[simp] theorem State.writeMem_cfg (a : Nat) (b : Byte) : (s.writeMem a b).cfg = s.cfg := rfl
@[simp] theorem State.writeMem_v (a : Nat) (b : Byte) : (s.writeMem a b).v = s.v := rfl
@[simp] theorem State.writeMem_pc (a : Nat) (b : Byte) : (s.writeMem a b).pc = s.pc := rfl
@[simp] theorem State.writeMem_i (a : Nat) (b : Byte) : (s.writeMem a b).i = s.i := rfl
@[simp] theorem State.writeMem_stack (a : Nat) (b : Byte) : (s.writeMem a b).stack = s.stack := rfl
@[simp] theorem State.writeMem_dt (a : Nat) (b : Byte) : (s.writeMem a b).dt = s.dt := rfl
@[simp] theorem State.writeMem_st (a : Nat) (b : Byte) : (s.writeMem a b).st = s.st := rfl
@[simp] theorem State.writeMem_keys (a : Nat) (b : Byte) : (s.writeMem a b).keys = s.keys := rfl
@[simp] theorem State.writeMem_kwPending (a : Nat) (b : Byte) : (s.writeMem a b).kwPending = s.kwPending := rfl
@[simp] theorem State.writeMem_kwTarget (a : Nat) (b : Byte) : (s.writeMem a b).kwTarget = s.kwTarget := rfl
@[simp] theorem State.writeMem_stop (a : Nat) (b : Byte) : (s.writeMem a b).stop = s.stop := rfl
@[simp] theorem State.writeMem_fault (a : Nat) (b : Byte) : (s.writeMem a b).fault = s.fault := rfl
@[simp] theorem State.writeMem_mem (a : Nat) (b : Byte) : (s.writeMem a b).mem = Memory.write s.cfg s.mem a b := rfl
@[simp] theorem State.writeMem_fb (a : Nat) (b : Byte) : (s.writeMem a b).fb = s.fb := rfl
@[simp] theorem State.writeMem_contin (a : Nat) (b : Byte) : (s.writeMem a b).contin = s.contin := rfl
@[simp] theorem State.writeMem_drawStrobe (a : Nat) (b : Byte) : (s.writeMem a b).drawStrobe = s.drawStrobe := rfl
@[simp] theorem State.writeMem_rndIn (a : Nat) (b : Byte) : (s.writeMem a b).rndIn = s.rndIn := rfl
@[simp] theorem State.writeMem_inputs (a : Nat) (b : Byte) : (s.writeMem a b).inputs = s.inputs := rfl
@[simp] theorem State.writeMem_inputCount (a : Nat) (b : Byte) : (s.writeMem a b).inputCount = s.inputCount := rfl
@[simp] theorem State.writeMem_getV (a : Nat) (b : Byte) (q : Nibble) : (s.writeMem a b).getV q = s.getV q := rfl

/-! ## `raise` -/

@[simp] theorem State.raise_cfg (f : FaultCode) : (s.raise f).cfg = s.cfg := rfl
@[simp] theorem State.raise_v (f : FaultCode) : (s.raise f).v = s.v := rfl
@[simp] theorem State.raise_pc (f : FaultCode) : (s.raise f).pc = s.pc := rfl
@[simp] theorem State.raise_i (f : FaultCode) : (s.raise f).i = s.i := rfl
@[simp] theorem State.raise_stack (f : FaultCode) : (s.raise f).stack = s.stack := rfl
@[simp] theorem State.raise_dt (f : FaultCode) : (s.raise f).dt = s.dt := rfl
@[simp] theorem State.raise_st (f : FaultCode) : (s.raise f).st = s.st := rfl
@[simp] theorem State.raise_keys (f : FaultCode) : (s.raise f).keys = s.keys := rfl
@[simp] theorem State.raise_kwPending (f : FaultCode) : (s.raise f).kwPending = s.kwPending := rfl
@[simp] theorem State.raise_kwTarget (f : FaultCode) : (s.raise f).kwTarget = s.kwTarget := rfl
@[simp] theorem State.raise_stop (f : FaultCode) : (s.raise f).stop = s.stop := rfl
@[simp] theorem State.raise_fault (f : FaultCode) : (s.raise f).fault = s.fault.or (some f) := rfl
@[simp] theorem State.raise_mem (f : FaultCode) : (s.raise f).mem = s.mem := rfl
@[simp] theorem State.raise_fb (f : FaultCode) : (s.raise f).fb = s.fb := rfl
@[simp] theorem State.raise_contin (f : FaultCode) : (s.raise f).contin = false := rfl
@[simp] theorem State.raise_drawStrobe (f : FaultCode) : (s.raise f).drawStrobe = false := rfl
@[simp] theorem State.raise_rndIn (f : FaultCode) : (s.raise f).rndIn = s.rndIn := rfl
@[simp] theorem State.raise_inputs (f : FaultCode) : (s.raise f).inputs = s.inputs := rfl
@[simp] theorem State.raise_inputCount (f : FaultCode) : (s.raise f).inputCount = s.inputCount := rfl
@[simp] theorem State.raise_readMem (f : FaultCode) (k : Nat) : (s.raise f).readMem k = s.readMem k := rfl
@[simp] theorem State.raise_getV (f : FaultCode) (q : Nibble) : (s.raise f).getV q = s.getV q := rfl

/-! ## `takeInput` -/

@[simp] theorem State.takeInput_cfg : (s.takeInput).cfg = s.cfg := rfl
@[simp] theorem State.takeInput_v : (s.takeInput).v = s.v := rfl
@[simp] theorem State.takeInput_pc : (s.takeInput).pc = s.pc := rfl
@[simp] theorem State.takeInput_i : (s.takeInput).i = s.i := rfl
@[simp] theorem State.takeInput_stack : (s.takeInput).stack = s.stack := rfl
@[simp] theorem State.takeInput_dt : (s.takeInput).dt = s.dt := rfl
@[simp] theorem State.takeInput_st : (s.takeInput).st = s.st := rfl
@[simp] theorem State.takeInput_keys : (s.takeInput).keys = s.keys := rfl
@[simp] theorem State.takeInput_kwPending : (s.takeInput).kwPending = s.kwPending := rfl
@[simp] theorem State.takeInput_kwTarget : (s.takeInput).kwTarget = s.kwTarget := rfl
@[simp] theorem State.takeInput_stop : (s.takeInput).stop = s.stop := rfl
@[simp] theorem State.takeInput_fault : (s.takeInput).fault = s.fault := rfl
@[simp] theorem State.takeInput_mem : (s.takeInput).mem = s.mem := rfl
@[simp] theorem State.takeInput_fb : (s.takeInput).fb = s.fb := rfl
@[simp] theorem State.takeInput_contin : (s.takeInput).contin = s.contin := rfl
@[simp] theorem State.takeInput_drawStrobe : (s.takeInput).drawStrobe = s.drawStrobe := rfl
@[simp] theorem State.takeInput_rndIn : (s.takeInput).rndIn = s.rndIn := rfl
@[simp] theorem State.takeInput_inputs : (s.takeInput).inputs = s.inputs.tail := rfl
@[simp] theorem State.takeInput_inputCount : (s.takeInput).inputCount = s.inputCount + 1 := rfl
@[simp] theorem State.takeInput_readMem (k : Nat) : (s.takeInput).readMem k = s.readMem k := rfl
@[simp] theorem State.takeInput_getV (q : Nibble) : (s.takeInput).getV q = s.getV q := rfl

/-! ## `begin` -/

@[simp] theorem State.begin_cfg (inp : StepInput) : (s.begin inp).cfg = s.cfg := rfl
@[simp] theorem State.begin_v (inp : StepInput) : (s.begin inp).v = s.v := rfl
@[simp] theorem State.begin_pc (inp : StepInput) : (s.begin inp).pc = s.pc := rfl
@[simp] theorem State.begin_i (inp : StepInput) : (s.begin inp).i = s.i := rfl
@[simp] theorem State.begin_stack (inp : StepInput) : (s.begin inp).stack = s.stack := rfl
@[simp] theorem State.begin_dt (inp : StepInput) : (s.begin inp).dt = decr s.dt := rfl
@[simp] theorem State.begin_st (inp : StepInput) : (s.begin inp).st = decr s.st := rfl
@[simp] theorem State.begin_keys (inp : StepInput) : (s.begin inp).keys = inp.keys := rfl
@[simp] theorem State.begin_kwPending (inp : StepInput) : (s.begin inp).kwPending = s.kwPending := rfl
@[simp] theorem State.begin_kwTarget (inp : StepInput) : (s.begin inp).kwTarget = s.kwTarget := rfl
@[simp] theorem State.begin_stop (inp : StepInput) : (s.begin inp).stop = s.stop := rfl
@[simp] theorem State.begin_fault (inp : StepInput) : (s.begin inp).fault = s.fault := rfl
@[simp] theorem State.begin_mem (inp : StepInput) : (s.begin inp).mem = s.mem := rfl
@[simp] theorem State.begin_fb (inp : StepInput) : (s.begin inp).fb = s.fb := rfl
@[simp] theorem State.begin_contin (inp : StepInput) : (s.begin inp).contin = s.contin := rfl
@[simp] theorem State.begin_drawStrobe (inp : StepInput) : (s.begin inp).drawStrobe = false := rfl
@[simp] theorem State.begin_rndIn (inp : StepInput) : (s.begin inp).rndIn = inp.rnd := rfl
@[simp] theorem State.begin_inputs (inp : StepInput) : (s.begin inp).inputs = s.inputs := rfl
@[simp] theorem State.begin_inputCount (inp : StepInput) : (s.begin inp).inputCount = s.inputCount := rfl
@[simp] theorem State.begin_readMem (inp : StepInput) (k : Nat) : (s.begin inp).readMem k = s.readMem k := rfl
@[simp] theorem State.begin_getV (inp : StepInput) (q : Nibble) : (s.begin inp).getV q = s.getV q := rfl

/-! ## `frozen` -/

@[simp] theorem State.frozen_cfg : (s.frozen).cfg = s.cfg := rfl
@[simp] theorem State.frozen_v : (s.frozen).v = s.v := rfl
@[simp] theorem State.frozen_pc : (s.frozen).pc = s.pc := rfl
@[simp] theorem State.frozen_i : (s.frozen).i = s.i := rfl
@[simp] theorem State.frozen_stack : (s.frozen).stack = s.stack := rfl
@[simp] theorem State.frozen_dt : (s.frozen).dt = s.dt := rfl
@[simp] theorem State.frozen_st : (s.frozen).st = s.st := rfl
@[simp] theorem State.frozen_keys : (s.frozen).keys = s.keys := rfl
@[simp] theorem State.frozen_kwPending : (s.frozen).kwPending = s.kwPending := rfl
@[simp] theorem State.frozen_kwTarget : (s.frozen).kwTarget = s.kwTarget := rfl
@[simp] theorem State.frozen_stop : (s.frozen).stop = s.stop := rfl
@[simp] theorem State.frozen_fault : (s.frozen).fault = s.fault := rfl
@[simp] theorem State.frozen_mem : (s.frozen).mem = s.mem := rfl
@[simp] theorem State.frozen_fb : (s.frozen).fb = s.fb := rfl
@[simp] theorem State.frozen_contin : (s.frozen).contin = false := rfl
@[simp] theorem State.frozen_drawStrobe : (s.frozen).drawStrobe = false := rfl
@[simp] theorem State.frozen_rndIn : (s.frozen).rndIn = s.rndIn := rfl
@[simp] theorem State.frozen_inputs : (s.frozen).inputs = s.inputs := rfl
@[simp] theorem State.frozen_inputCount : (s.frozen).inputCount = s.inputCount := rfl
@[simp] theorem State.frozen_readMem (k : Nat) : (s.frozen).readMem k = s.readMem k := rfl
@[simp] theorem State.frozen_getV (q : Nibble) : (s.frozen).getV q = s.getV q := rfl

/-! ## `advance` -/

@[simp] theorem State.advance_cfg : (s.advance).cfg = s.cfg := rfl
@[simp] theorem State.advance_v : (s.advance).v = s.v := rfl
@[simp] theorem State.advance_pc : (s.advance).pc = s.pcPlus2 := rfl
@[simp] theorem State.advance_i : (s.advance).i = s.i := rfl
@[simp] theorem State.advance_stack : (s.advance).stack = s.stack := rfl
@[simp] theorem State.advance_dt : (s.advance).dt = s.dt := rfl
@[simp] theorem State.advance_st : (s.advance).st = s.st := rfl
@[simp] theorem State.advance_keys : (s.advance).keys = s.keys := rfl
@[simp] theorem State.advance_kwPending : (s.advance).kwPending = s.kwPending := rfl
@[simp] theorem State.advance_kwTarget : (s.advance).kwTarget = s.kwTarget := rfl
@[simp] theorem State.advance_stop : (s.advance).stop = s.stop := rfl
@[simp] theorem State.advance_fault : (s.advance).fault = s.fault := rfl
@[simp] theorem State.advance_mem : (s.advance).mem = s.mem := rfl
@[simp] theorem State.advance_fb : (s.advance).fb = s.fb := rfl
@[simp] theorem State.advance_contin : (s.advance).contin = s.contin := rfl
@[simp] theorem State.advance_drawStrobe : (s.advance).drawStrobe = s.drawStrobe := rfl
@[simp] theorem State.advance_rndIn : (s.advance).rndIn = s.rndIn := rfl
@[simp] theorem State.advance_inputs : (s.advance).inputs = s.inputs := rfl
@[simp] theorem State.advance_inputCount : (s.advance).inputCount = s.inputCount := rfl
@[simp] theorem State.advance_readMem (k : Nat) : (s.advance).readMem k = s.readMem k := rfl
@[simp] theorem State.advance_getV (q : Nibble) : (s.advance).getV q = s.getV q := rfl

/-! ## `finish` -/

@[simp] theorem State.finish_cfg : (s.finish).cfg = s.cfg := rfl
@[simp] theorem State.finish_v : (s.finish).v = s.v := rfl
@[simp] theorem State.finish_pc : (s.finish).pc = s.pc := rfl
@[simp] theorem State.finish_i : (s.finish).i = s.i := rfl
@[simp] theorem State.finish_stack : (s.finish).stack = s.stack := rfl
@[simp] theorem State.finish_dt : (s.finish).dt = s.dt := rfl
@[simp] theorem State.finish_st : (s.finish).st = s.st := rfl
@[simp] theorem State.finish_keys : (s.finish).keys = s.keys := rfl
@[simp] theorem State.finish_kwPending : (s.finish).kwPending = s.kwPending := rfl
@[simp] theorem State.finish_kwTarget : (s.finish).kwTarget = s.kwTarget := rfl
@[simp] theorem State.finish_stop : (s.finish).stop = s.stop := rfl
@[simp] theorem State.finish_fault : (s.finish).fault = s.fault := rfl
@[simp] theorem State.finish_mem : (s.finish).mem = s.mem := rfl
@[simp] theorem State.finish_fb : (s.finish).fb = s.fb := rfl
@[simp] theorem State.finish_contin : (s.finish).contin = (s.fault.isNone && !s.stop && decide (s.pc.toNat < Config.memSize)) := rfl
@[simp] theorem State.finish_drawStrobe : (s.finish).drawStrobe = s.drawStrobe := rfl
@[simp] theorem State.finish_rndIn : (s.finish).rndIn = s.rndIn := rfl
@[simp] theorem State.finish_inputs : (s.finish).inputs = s.inputs := rfl
@[simp] theorem State.finish_inputCount : (s.finish).inputCount = s.inputCount := rfl
@[simp] theorem State.finish_readMem (k : Nat) : (s.finish).readMem k = s.readMem k := rfl
@[simp] theorem State.finish_getV (q : Nibble) : (s.finish).getV q = s.getV q := rfl

/-! ## Registers -/

/-- Reading a register after a write: the value written, or what it held. -/
@[simp] theorem State.setV_getV (r : Nibble) (b : Byte) (q : Nibble) :
    (s.setV r b).getV q = if q = r then b else s.getV q := by
  by_cases h : q = r
  · subst h; simp [State.getV]
  · have : r.toNat ≠ q.toNat := fun e => h (BitVec.eq_of_toNat_eq e.symm)
    simp [State.getV, h, Vector.getElem_set_ne, this]

/-- Reading a register after a write of `VF`. -/
@[simp] theorem State.setFlag_getV (b : Byte) (q : Nibble) :
    (s.setFlag b).getV q = if q = 15#4 then b else s.getV q := State.setV_getV s 15#4 b q

/-- Two states with the same registers one by one have the same register file. -/
theorem State.v_ext {s t : State} (h : ∀ q, s.getV q = t.getV q) : s.v = t.v := by
  apply Vector.ext
  intro k hk
  have := h (BitVec.ofNat 4 k)
  simpa [State.getV, Nat.mod_eq_of_lt hk] using this

end Sys2Proof.Machine
end

