-- ==== Sys2Proof/Laws/Memory.lean ====
section
/-!
SUPPORT. Memory: a read after a write, and that every memory operation keeps the canonical form (20_memory R59).
-/

namespace Sys2Proof.Machine

theorem Memory.lookup_insert (m : Memory) (a : Nat) (b : Byte) (k : Nat) :
    Memory.lookup (Memory.insert m a b) k = if k = a then some b else Memory.lookup m k := by
  induction m with
  | nil => simp [Memory.insert, Memory.lookup, eq_comm]
  | cons e m ih =>
    obtain ⟨j, c⟩ := e
    simp only [Memory.insert]
    split
    · simp [Memory.lookup, eq_comm]
    · split
      · subst_vars; by_cases h : k = j <;> simp [Memory.lookup, h, eq_comm]
      · simp only [Memory.lookup, ih]
        by_cases h : j = k
        · have : k ≠ a := by omega
          simp [h, this]
        · simp [h]

theorem Memory.lookup_erase (m : Memory) (a k : Nat) :
    Memory.lookup (Memory.erase m a) k = if k = a then none else Memory.lookup m k := by
  induction m with
  | nil => simp [Memory.erase, Memory.lookup]
  | cons e m ih =>
    obtain ⟨j, c⟩ := e
    simp only [Memory.erase]
    by_cases hj : j = a
    · subst hj
      rw [if_pos rfl, ih]
      by_cases h : k = j
      · simp only [if_pos h]
      · have : j ≠ k := fun e => h e.symm
        simp only [if_neg h, Memory.lookup, if_neg this]
    · by_cases h : j = k
      · have : k ≠ a := by omega
        subst h
        simp [hj, Memory.lookup]
      · simp [hj, h, Memory.lookup, ih]

/-- A read after a write: the byte written at that address, and what was there at every other. -/
theorem Memory.read_write (c : Config) (m : Memory) (a : Nat) (b : Byte) (k : Nat) :
    Memory.read c (Memory.write c m a b) k = if k = a then b else Memory.read c m k := by
  unfold Memory.read Memory.write
  split
  · rename_i h; by_cases hk : k = a <;> simp [Memory.lookup_erase, hk, h]
  · by_cases hk : k = a <;> simp [Memory.lookup_insert, hk]

@[simp] theorem State.writeMem_readMem (s : State) (a : Nat) (b : Byte) (k : Nat) :
    (s.writeMem a b).readMem k = if k = a then b else s.readMem k := Memory.read_write s.cfg s.mem a b k

/-- Memory that lists nothing reads as `Load` of an empty image leaves it (20_memory R51). -/
@[simp] theorem Memory.read_nil (c : Config) (a : Nat) : Memory.read c [] a = initByte c a := rfl

theorem Memory.wfFrom_mono (c : Config) {lo lo' : Nat} (h : lo' ≤ lo) {m : Memory} (hm : Memory.wfFrom c lo m = true) :
    Memory.wfFrom c lo' m = true := by
  cases m with
  | nil => rfl
  | cons e m =>
    obtain ⟨k, b⟩ := e
    simp only [Memory.wfFrom, Bool.and_eq_true, decide_eq_true_eq] at hm ⊢
    exact ⟨⟨⟨by omega, hm.1.1.2⟩, hm.1.2⟩, hm.2⟩

theorem Memory.wfFrom_insert (c : Config) {a : Nat} {b : Byte} (ha : a < Config.memSize) (hb : b ≠ initByte c a)
    (m : Memory) (lo : Nat) (hlo : lo ≤ a) (hm : Memory.wfFrom c lo m = true) :
    Memory.wfFrom c lo (Memory.insert m a b) = true := by
  induction m generalizing lo with
  | nil => simp [Memory.insert, Memory.wfFrom, hlo, ha, hb]
  | cons e m ih =>
    obtain ⟨k, d⟩ := e
    simp only [Memory.wfFrom, Bool.and_eq_true, decide_eq_true_eq] at hm
    simp only [Memory.insert]
    split
    · simp only [Memory.wfFrom, Bool.and_eq_true, decide_eq_true_eq, bne_iff_ne, ne_eq]
      exact ⟨⟨⟨hlo, ha⟩, hb⟩, ⟨⟨by omega, hm.1.1.2⟩, by simpa using hm.1.2⟩, hm.2⟩
    · split
      · subst_vars
        simp only [Memory.wfFrom, Bool.and_eq_true, decide_eq_true_eq, bne_iff_ne, ne_eq]
        exact ⟨⟨⟨hlo, ha⟩, hb⟩, hm.2⟩
      · simp only [Memory.wfFrom, Bool.and_eq_true, decide_eq_true_eq]
        exact ⟨⟨⟨hm.1.1.1, hm.1.1.2⟩, hm.1.2⟩, ih (k + 1) (by omega) hm.2⟩

theorem Memory.wfFrom_erase (c : Config) (a : Nat) (m : Memory) (lo : Nat) (hm : Memory.wfFrom c lo m = true) :
    Memory.wfFrom c lo (Memory.erase m a) = true := by
  induction m generalizing lo with
  | nil => rfl
  | cons e m ih =>
    obtain ⟨k, d⟩ := e
    simp only [Memory.wfFrom, Bool.and_eq_true, decide_eq_true_eq] at hm
    simp only [Memory.erase]
    split
    · exact Memory.wfFrom_mono c (by omega) (ih (k + 1) hm.2)
    · simp only [Memory.wfFrom, Bool.and_eq_true, decide_eq_true_eq]
      exact ⟨⟨⟨hm.1.1.1, hm.1.1.2⟩, hm.1.2⟩, ih (k + 1) hm.2⟩

/-- A write inside `MEM` keeps the canonical form. -/
theorem Memory.wf_write (c : Config) {m : Memory} (hm : Memory.wf c m = true) {a : Nat} (ha : a < Config.memSize) (b : Byte) :
    Memory.wf c (Memory.write c m a b) = true := by
  unfold Memory.write
  split
  · exact Memory.wfFrom_erase c a m 0 hm
  · exact Memory.wfFrom_insert c ha (by assumption) m 0 (Nat.zero_le a) hm

/-- Storing an image that fits keeps the canonical form. -/
theorem Memory.wf_storeImage (c : Config) (bs : List Byte) (a : Nat) {m : Memory} (hm : Memory.wf c m = true)
    (h : a + bs.length ≤ Config.memSize) : Memory.wf c (Memory.storeImage c bs a m) = true := by
  induction bs generalizing a m with
  | nil => exact hm
  | cons b bs ih =>
    simp only [List.length_cons] at h
    exact ih (a + 1) (Memory.wf_write c hm (by omega) b) (by omega)

/-- What each byte reads as after an image is stored: the image's byte inside it, what was there outside. -/
theorem Memory.read_storeImage (c : Config) (bs : List Byte) (a : Nat) (m : Memory) (k : Nat) :
    Memory.read c (Memory.storeImage c bs a m) k =
      if a ≤ k ∧ k < a + bs.length then bs.getD (k - a) 0 else Memory.read c m k := by
  induction bs generalizing a m with
  | nil =>
    have h : ¬ (a ≤ k ∧ k < a + 0) := by omega
    simp only [List.length_nil, if_neg h]
    rfl
  | cons b bs ih =>
    rw [Memory.storeImage, ih, Memory.read_write, List.length_cons]
    by_cases h : k = a
    · subst h
      have h1 : ¬ (k + 1 ≤ k ∧ k < k + 1 + bs.length) := by omega
      have h2 : k ≤ k ∧ k < k + (bs.length + 1) := by omega
      simp only [if_neg h1, if_pos h2, if_true, Nat.sub_self, List.getD_cons_zero]
    · by_cases h1 : a + 1 ≤ k ∧ k < a + 1 + bs.length
      · have h2 : a ≤ k ∧ k < a + (bs.length + 1) := by omega
        have h3 : k - a = k - (a + 1) + 1 := by omega
        rw [if_pos h1, if_pos h2, h3, List.getD_cons_succ]
      · have h2 : ¬ (a ≤ k ∧ k < a + (bs.length + 1)) := by omega
        rw [if_neg h1, if_neg h2, if_neg h]

/-- The memory of the reset state is in canonical form. -/
theorem State.reset_mem_wf : Memory.wf State.reset.cfg State.reset.mem = true := rfl

end Sys2Proof.Machine
end

