-- ==== Sys2Proof/Laws/Ops.lean ====
section
/-!
SUPPORT. One lemma per shared operation that says everything it can do: raising, stack, accesses of several bytes, the
display, the key poll.
-/

namespace Sys2Proof.Machine

/-! ## Faults and skips -/

/-- Raising a first fault latches its code (60_exceptions R203). -/
theorem State.raise_of_noFault {s : State} (h : s.fault = none) (f : FaultCode) :
    s.raise f = { s with fault := some f, contin := false, drawStrobe := false } := by
  simp [State.raise, h]

/-- Only the program counter can change in a skip. -/
theorem State.skipIf_eq (s : State) (b : Bool) :
    s.skipIf b = { s with pc := if b = true then s.pcPlus2 else s.pc } := by
  cases b <;> rfl

/-! ## The width of `PC` -/

/-- A number that fits 13 bits is what `PC` holds of it, at every valid width (92_eei_decisions D3). -/
theorem Config.pcValue_toNat {c : Config} (hc : 13 ≤ c.pcWidth) {n : Nat} (hn : n < 8192) : (Config.pcValue c n).toNat = n := by
  have h : n < 2 ^ c.pcWidth := Nat.lt_of_lt_of_le hn (Nat.pow_le_pow_right (by decide : 0 < 2) hc)
  rw [Config.pcValue, Nat.mod_eq_of_lt h, BitVec.toNat_ofNat]
  exact Nat.mod_eq_of_lt (by omega)

/-- The value of `PC` never exceeds the sum it was reduced from. -/
theorem Config.pcValue_le (c : Config) (n : Nat) : (Config.pcValue c n).toNat ≤ n := by
  rw [Config.pcValue, BitVec.toNat_ofNat]
  exact Nat.le_trans (Nat.mod_le _ _) (Nat.mod_le _ _)

/-- `PC + 2` where `PC` is at most 4350, as it is in every run (10_state R23). -/
theorem State.pcPlus2_toNat {s : State} (hc : 13 ≤ s.cfg.pcWidth) (h : s.pc.toNat ≤ 4350) : s.pcPlus2.toNat = s.pc.toNat + 2 :=
  Config.pcValue_toNat hc (by omega)

/-- The target of `Bnnn` is `V0 + nnn`, unreduced (41_control_flow R115). -/
theorem State.offsetTarget_toNat {s : State} (hc : 13 ≤ s.cfg.pcWidth) (nnn : Addr12) :
    (s.offsetTarget nnn).toNat = (s.getV 0#4).toNat + nnn.toNat :=
  Config.pcValue_toNat hc (by have := (s.getV 0#4).isLt; have := nnn.isLt; omega)

/-! ## Stack -/

theorem State.pushAndJump_of_lt {s : State} (h : s.sp < s.cfg.stackDepth) (ret target : Word) :
    s.pushAndJump ret target = { s with stack := s.stack ++ [ret], pc := target } := if_pos h

theorem State.pushAndJump_of_full {s : State} (h : s.cfg.stackDepth ≤ s.sp) (ret target : Word) :
    s.pushAndJump ret target = s.raise .stackOverflow := if_neg (by omega)

theorem State.popAndJump_of_append {s : State} {rest : List Word} {w : Word} (h : s.stack = rest ++ [w]) :
    s.popAndJump = { s with stack := rest, pc := w } := by
  simp [State.popAndJump, h]

theorem State.popAndJump_of_empty {s : State} (h : s.stack = []) : s.popAndJump = s.raise .stackUnderflow := by
  simp [State.popAndJump, h]

/-! ## Accesses of several bytes -/

/-- What each byte reads as after `storeBytes`: the new byte where the store reaches inside `MEM`, the old one elsewhere. -/
theorem State.storeBytes_readMem (bs : List Byte) (a : Nat) (s : State) (k : Nat) :
    (State.storeBytes bs a s).readMem k =
      if a ≤ k ∧ k < a + bs.length ∧ k < Config.memSize then bs.getD (k - a) 0 else s.readMem k := by
  induction bs generalizing a s with
  | nil =>
    rw [List.length_nil, if_neg (by omega)]
    rfl
  | cons b bs ih =>
    rw [State.storeBytes, List.length_cons]
    by_cases ha : a < Config.memSize
    · rw [if_pos ha, ih, State.writeMem_readMem]
      by_cases h : k = a
      · subst h
        rw [if_neg (by omega), if_pos rfl, if_pos (by omega), Nat.sub_self, List.getD_cons_zero]
      · by_cases h1 : a + 1 ≤ k ∧ k < a + 1 + bs.length ∧ k < Config.memSize
        · have h3 : k - a = k - (a + 1) + 1 := by omega
          rw [if_pos h1, if_pos (by omega), h3, List.getD_cons_succ]
        · rw [if_neg h1, if_neg h, if_neg (by omega)]
    · rw [if_neg ha, if_neg (by omega)]
      rfl

/-- `storeBytes` changes memory, and raises `OutOfBoundsAccess` exactly when a byte does not fit. -/
theorem State.storeBytes_eq (bs : List Byte) (a : Nat) (s : State) :
    State.storeBytes bs a s =
      if bs = [] ∨ a + bs.length ≤ Config.memSize then { s with mem := (State.storeBytes bs a s).mem }
      else { s with mem := (State.storeBytes bs a s).mem }.raise .outOfBoundsAccess := by
  induction bs generalizing a s with
  | nil => rfl
  | cons b bs ih =>
    rw [State.storeBytes]
    by_cases ha : a < Config.memSize
    · rw [if_pos ha]
      have hi := ih (a + 1) (s.writeMem a b)
      by_cases hf : a + (bs.length + 1) ≤ Config.memSize
      · rw [if_pos (Or.inr (by omega))] at hi
        rw [List.length_cons, if_pos (Or.inr hf), hi]
        rfl
      · have hne : ¬ (bs = [] ∨ a + 1 + bs.length ≤ Config.memSize) := by
          rintro (h | h)
          · subst h; simp at hf; omega
          · omega
        rw [if_neg hne] at hi
        rw [List.length_cons, if_neg (by simp; omega), hi]
        rfl
    · rw [if_neg ha, List.length_cons, if_neg (by simp; omega)]
      rfl

/-- `storeBytes` keeps the canonical form of memory. -/
theorem State.storeBytes_wf (bs : List Byte) (a : Nat) (s : State) (h : Memory.wf s.cfg s.mem = true) :
    Memory.wf s.cfg (State.storeBytes bs a s).mem = true := by
  induction bs generalizing a s with
  | nil => exact h
  | cons b bs ih =>
    rw [State.storeBytes]
    split
    · exact ih (a + 1) (s.writeMem a b) (Memory.wf_write s.cfg h ‹_› b)
    · exact h

/-- What each register reads as after `loadRegs`: the memory byte where the load reaches inside `MEM`, the old value
elsewhere. -/
theorem State.loadRegs_getV (k r a : Nat) (s : State) (hr : r + k ≤ 16) (q : Nibble) :
    (State.loadRegs k r a s).getV q =
      if r ≤ q.toNat ∧ q.toNat < r + k ∧ a + (q.toNat - r) < Config.memSize then s.readMem (a + (q.toNat - r))
      else s.getV q := by
  induction k generalizing r a s with
  | zero =>
    rw [if_neg (by omega)]
    rfl
  | succ k ih =>
    rw [State.loadRegs]
    by_cases ha : a < Config.memSize
    · rw [if_pos ha, ih (r + 1) (a + 1) _ (by omega)]
      have hmod : r % 16 = r := Nat.mod_eq_of_lt (by omega)
      by_cases h : q.toNat = r
      · have hq : q = BitVec.ofNat 4 r := BitVec.eq_of_toNat_eq (by simp [h, hmod])
        rw [if_neg (by omega), if_pos (by omega), State.setV_getV, if_pos hq, h, Nat.sub_self]
        rfl
      · have hq : q ≠ BitVec.ofNat 4 r := fun e => h (by rw [e]; simp [hmod])
        rw [State.setV_readMem, State.setV_getV, if_neg hq]
        by_cases h1 : r + 1 ≤ q.toNat ∧ q.toNat < r + 1 + k ∧ a + 1 + (q.toNat - (r + 1)) < Config.memSize
        · have h3 : a + 1 + (q.toNat - (r + 1)) = a + (q.toNat - r) := by omega
          rw [if_pos h1, if_pos (by omega), h3]
        · rw [if_neg h1, if_neg (by omega)]
    · rw [if_neg ha, if_neg (by omega)]
      rfl

/-- `loadRegs` changes registers, and raises `OutOfBoundsAccess` exactly when a byte does not lie inside `MEM`. -/
theorem State.loadRegs_eq (k r a : Nat) (s : State) :
    State.loadRegs k r a s =
      if k = 0 ∨ a + k ≤ Config.memSize then { s with v := (State.loadRegs k r a s).v }
      else { s with v := (State.loadRegs k r a s).v }.raise .outOfBoundsAccess := by
  induction k generalizing r a s with
  | zero => rfl
  | succ k ih =>
    rw [State.loadRegs]
    by_cases ha : a < Config.memSize
    · rw [if_pos ha]
      have hi := ih (r + 1) (a + 1) (s.setV (BitVec.ofNat 4 r) (s.readMem a))
      by_cases hf : a + (k + 1) ≤ Config.memSize
      · rw [if_pos (Or.inr (by omega))] at hi
        rw [if_pos (Or.inr hf), hi]
        rfl
      · rw [if_neg (by omega)] at hi
        rw [if_neg (by omega), hi]
        rfl
    · rw [if_neg ha, if_neg (by omega)]
      rfl

/-- The registers `V0` to `Vx` in order (43_index_memory R154). -/
theorem State.regsUpTo_getD (s : State) (x : Nibble) (k : Nat) (hk : k ≤ x.toNat) :
    (s.regsUpTo x).getD k 0 = s.getV (BitVec.ofNat 4 k) := by
  have h : k < (s.regsUpTo x).length := by simp [State.regsUpTo]; omega
  rw [List.getD_eq_getElem _ _ h]
  simp [State.regsUpTo]

@[simp] theorem State.regsUpTo_length (s : State) (x : Nibble) : (s.regsUpTo x).length = x.toNat + 1 := by
  simp [State.regsUpTo]

/-! ## Registers with a flag -/

/-- The registers after a result and its flag are written in the order `FLAG_ORDER_X15` names (42_alu R137). -/
theorem State.writeResultFlag_getV (s : State) (x : Nibble) (r f : Byte) (q : Nibble) :
    (s.writeResultFlag x r f).getV q =
      if q = 15#4 ∧ (x ≠ 15#4 ∨ s.cfg.flagOrder = .flagLast) then f else if q = x then r else s.getV q := by
  unfold State.writeResultFlag
  split <;> rename_i ho
  · by_cases hq : q = 15#4 <;> simp [hq, ho]
  · by_cases hq : q = 15#4
    · subst hq
      by_cases hx : x = 15#4
      · subst hx; simp [ho]
      · simp [hx, ho, Ne.symm hx]
    · simp [hq]

/-- Nothing but registers changes. -/
theorem State.writeResultFlag_eq (s : State) (x : Nibble) (r f : Byte) :
    s.writeResultFlag x r f = { s with v := (s.writeResultFlag x r f).v } := by
  unfold State.writeResultFlag
  split <;> rfl

/-! ## Display -/

/-- The pixel of a sprite byte at column `c` (44_display R171, R172). -/
theorem spriteLine_pixel (b : Byte) (px c : Nat) (hc : c < 64) :
    (spriteLine b px).getLsbD (63 - c) = (decide (px ≤ c ∧ c < px + 8) && b.getLsbD (7 - (c - px))) := by
  unfold spriteLine
  rw [BitVec.getLsbD_ushiftRight, BitVec.getLsbD_shiftLeft, BitVec.getLsbD_setWidth]
  by_cases h : px ≤ c ∧ c < px + 8
  · have h1 : px + (63 - c) < 64 := by omega
    have h2 : ¬ px + (63 - c) < 56 := by omega
    have h3 : px + (63 - c) - 56 = 7 - (c - px) := by omega
    have h4 : 7 - (c - px) < 64 := by omega
    simp [h, h1, h2, h3, h4]
  · by_cases h1 : px + (63 - c) < 64
    · by_cases h2 : px + (63 - c) < 56
      · simp [h, h2]
      · omega
    · simp [h, h1]

/-- One row of the display after the sprite rows are drawn (44_display R171). -/
theorem drawRows_row (c : Config) (m : Memory) (base px py n : Nat) (acc : Vector Row 32 × Bool) (r : Nat) (hr : r < 32) :
    (drawRows c m base px py n acc).1[r] =
      if py ≤ r ∧ r < py + n ∧ base + (r - py) ≤ 4095 then
        acc.1[r] ^^^ spriteLine (Memory.read c m (base + (r - py))) px
      else acc.1[r] := by
  induction n with
  | zero =>
    rw [if_neg (by omega)]
    rfl
  | succ n ih =>
    rw [drawRows, drawRow]
    by_cases h : base + n ≤ 4095 ∧ py + n ≤ 31
    · rw [dif_pos h]
      by_cases hrn : r = py + n
      · subst hrn
        have h3 : py + n - py = n := by omega
        rw [if_neg (by omega)] at ih
        rw [if_pos (by omega), Vector.getElem_set_self, ih, h3]
      · rw [Vector.getElem_set_ne _ _ (fun e => hrn e.symm), ih]
        by_cases h1 : py ≤ r ∧ r < py + n ∧ base + (r - py) ≤ 4095
        · rw [if_pos h1, if_pos (by omega)]
        · rw [if_neg h1, if_neg (by omega)]
    · rw [dif_neg h, ih]
      by_cases h1 : py ≤ r ∧ r < py + n ∧ base + (r - py) ≤ 4095
      · rw [if_pos h1, if_pos (by omega)]
      · rw [if_neg h1, if_neg (by omega)]

/-- The collision of the sprite rows drawn: some drawn row had a pixel set where the sprite sets one (44_display R171). -/
theorem drawRows_collision (c : Config) (m : Memory) (base px py n : Nat) (acc : Vector Row 32 × Bool) :
    (drawRows c m base px py n acc).2 = true ↔
      acc.2 = true ∨ ∃ r, ∃ hr : r < 32, py ≤ r ∧ r < py + n ∧ base + (r - py) ≤ 4095 ∧
        acc.1[r] &&& spriteLine (Memory.read c m (base + (r - py))) px ≠ 0#64 := by
  induction n with
  | zero =>
    constructor
    · exact Or.inl
    · rintro (h | ⟨r, hr, h1, h2, _⟩)
      · exact h
      · omega
  | succ n ih =>
    rw [drawRows, drawRow]
    by_cases h : base + n ≤ 4095 ∧ py + n ≤ 31
    · rw [dif_pos h]
      have hrow := drawRows_row c m base px py n acc (py + n) (by omega)
      rw [if_neg (by omega)] at hrow
      simp only [Bool.or_eq_true, bne_iff_ne, hrow, ih]
      constructor
      · rintro ((h1 | ⟨r, hr, h1, h2, h3, h4⟩) | h1)
        · exact Or.inl h1
        · exact Or.inr ⟨r, hr, h1, by omega, h3, h4⟩
        · have h3 : py + n - py = n := by omega
          exact Or.inr ⟨py + n, by omega, by omega, by omega, by omega, by rwa [h3]⟩
      · rintro (h1 | ⟨r, hr, h1, h2, h3, h4⟩)
        · exact Or.inl (Or.inl h1)
        · by_cases hrn : r = py + n
          · subst hrn
            have h5 : py + n - py = n := by omega
            exact Or.inr (by rwa [h5] at h4)
          · exact Or.inl (Or.inr ⟨r, hr, h1, by omega, h3, h4⟩)
    · rw [dif_neg h, ih]
      constructor
      · rintro (h1 | ⟨r, hr, h1, h2, h3, h4⟩)
        · exact Or.inl h1
        · exact Or.inr ⟨r, hr, h1, by omega, h3, h4⟩
      · rintro (h1 | ⟨r, hr, h1, h2, h3, h4⟩)
        · exact Or.inl h1
        · have : r ≠ py + n := by rintro rfl; omega
          exact Or.inr ⟨r, hr, h1, by omega, h3, h4⟩

/-! ## The key poll -/

/-- `lowest_set` (00_scope R12): the least index of a set bit, where one is set. -/
theorem lowestSet_spec {k : Word} {j : Nat} (hj : k.getLsbD j = true) (hmin : ∀ l < j, k.getLsbD l = false) :
    lowestSet k = j := by
  have hlt : j < 16 := BitVec.lt_of_getLsbD hj
  have hf : (List.range 16).find? (fun i => k.getLsbD i) = some j := by
    rw [List.find?_eq_some_iff_append]
    refine ⟨hj, List.range j, (List.range (15 - j)).map (· + (j + 1)), ?_, ?_⟩
    · have : 16 = j + 1 + (15 - j) := by omega
      rw [this, List.range_add, List.range_succ, List.append_assoc]
      simp [Nat.add_comm]
    · intro l hl
      simp [hmin l (List.mem_range.mp hl)]
  simp [lowestSet, hf]

/-- A decrement is a truncated subtraction (40_step_cycle R91). -/
theorem decr_eq (b : Byte) : decr b = BitVec.ofNat 8 (b.toNat - 1) := by
  unfold decr
  split
  · subst_vars; rfl
  · rename_i h
    have : 0 < b.toNat := by
      rcases Nat.eq_zero_or_pos b.toNat with h0 | h0
      · exact absurd (BitVec.eq_of_toNat_eq (by simpa using h0)) h
      · exact h0
    have hb := b.isLt
    apply BitVec.eq_of_toNat_eq
    simp [BitVec.toNat_sub]
    omega

/-- The key-wait part of a step changes a register, the wait and the output only. -/
theorem State.keyWaitStep_eq (s : State) :
    s.keyWaitStep = { s with v := s.keyWaitStep.v, kwPending := s.keyWaitStep.kwPending, contin := true } := by
  unfold State.keyWaitStep
  split <;> rfl

end Sys2Proof.Machine
end

