-- ==== Sys2Proof/Laws/PerInstr.lean ====
section
/-!
SUPPORT. The per-instruction family `EncodingClass`: the class nibble of an instruction's word is its row's first nibble in
spec/opcode_table.json (30_encoding R71, R74).
-/

namespace Sys2Proof.Laws.EncodingClass

/-- The first nibble of the row's pattern (30_encoding R74). -/
def classOf : Instr → Nibble
  | .cls => 0#4
  | .ret => 0#4
  | .jp0 _ => 0#4
  | .jp _ => 1#4
  | .call _ => 2#4
  | .seImm _ _ => 3#4
  | .sneImm _ _ => 4#4
  | .seReg _ _ _ => 5#4
  | .ldImm _ _ => 6#4
  | .addImm _ _ => 7#4
  | .ldReg _ _ => 8#4
  | .or _ _ => 8#4
  | .and _ _ => 8#4
  | .xor _ _ => 8#4
  | .addReg _ _ => 8#4
  | .sub _ _ => 8#4
  | .shr _ _ => 8#4
  | .subn _ _ => 8#4
  | .shl _ _ => 8#4
  | .sneReg _ _ _ => 9#4
  | .ldI _ => 10#4
  | .jpV0 _ => 11#4
  | .rnd _ _ => 12#4
  | .drw _ _ _ => 13#4
  | .skp _ => 14#4
  | .sknp _ => 14#4
  | .ldVxDt _ => 15#4
  | .ldVxK _ => 15#4
  | .ldDtVx _ => 15#4
  | .ldStVx _ => 15#4
  | .addI _ => 15#4
  | .ldF _ => 15#4
  | .ldB _ => 15#4
  | .ldMemVx _ => 15#4
  | .ldVxMem _ => 15#4
  | .reserved8 _ _ _ => 8#4
  | .reservedE _ _ => 14#4
  | .reservedF _ _ => 15#4

/-- The class nibble of the instruction's word is its row's. -/
def Statement (i : Instr) : Prop := fieldC (encode i) = classOf i

theorem fieldC_encNNN (c : Nibble) (nnn : Addr12) : fieldC (encNNN c nnn) = c := by
  unfold fieldC encNNN
  ext k hk
  rw [BitVec.getElem_extractLsb']
  change (BitVec.append c nnn).getLsbD (12 + k) = _
  have h := BitVec.getLsbD_append (x := c) (y := nnn) (i := 12 + k)
  simpa [hk] using h

theorem fieldC_encXKK (c x : Nibble) (kk : Byte) : fieldC (encXKK c x kk) = c := by
  unfold fieldC encXKK
  ext k hk
  rw [BitVec.getElem_extractLsb']
  have h := BitVec.getLsbD_append (x := c ++ x) (y := kk) (i := 12 + k)
  have h' := BitVec.getLsbD_append (x := c) (y := x) (i := 12 + k - 8)
  have h1 : ¬ 12 + k < 8 := by omega
  have h2 : ¬ 12 + k - 8 < 4 := by omega
  have h3 : 12 + k - 8 - 4 = k := by omega
  rw [if_neg h1] at h
  rw [if_neg h2, h3] at h'
  exact h.trans (h'.trans (by simp [hk]))

theorem fieldC_encXYN (c x y n : Nibble) : fieldC (encXYN c x y n) = c := fieldC_encXKK c x (y ++ n)

theorem cls : Statement .cls := by unfold Statement; decide
theorem ret : Statement .ret := by unfold Statement; decide
theorem jp0 (nnn : Addr12) : Statement (.jp0 nnn) := fieldC_encNNN _ _
theorem jp (nnn : Addr12) : Statement (.jp nnn) := fieldC_encNNN _ _
theorem call (nnn : Addr12) : Statement (.call nnn) := fieldC_encNNN _ _
theorem seImm (x : Nibble) (kk : Byte) : Statement (.seImm x kk) := fieldC_encXKK _ _ _
theorem sneImm (x : Nibble) (kk : Byte) : Statement (.sneImm x kk) := fieldC_encXKK _ _ _
theorem seReg (x : Nibble) (y : Nibble) (n : Nibble) : Statement (.seReg x y n) := fieldC_encXYN _ _ _ _
theorem ldImm (x : Nibble) (kk : Byte) : Statement (.ldImm x kk) := fieldC_encXKK _ _ _
theorem addImm (x : Nibble) (kk : Byte) : Statement (.addImm x kk) := fieldC_encXKK _ _ _
theorem ldReg (x : Nibble) (y : Nibble) : Statement (.ldReg x y) := fieldC_encXYN _ _ _ _
theorem or (x : Nibble) (y : Nibble) : Statement (.or x y) := fieldC_encXYN _ _ _ _
theorem and (x : Nibble) (y : Nibble) : Statement (.and x y) := fieldC_encXYN _ _ _ _
theorem xor (x : Nibble) (y : Nibble) : Statement (.xor x y) := fieldC_encXYN _ _ _ _
theorem addReg (x : Nibble) (y : Nibble) : Statement (.addReg x y) := fieldC_encXYN _ _ _ _
theorem sub (x : Nibble) (y : Nibble) : Statement (.sub x y) := fieldC_encXYN _ _ _ _
theorem shr (x : Nibble) (y : Nibble) : Statement (.shr x y) := fieldC_encXYN _ _ _ _
theorem subn (x : Nibble) (y : Nibble) : Statement (.subn x y) := fieldC_encXYN _ _ _ _
theorem shl (x : Nibble) (y : Nibble) : Statement (.shl x y) := fieldC_encXYN _ _ _ _
theorem sneReg (x : Nibble) (y : Nibble) (n : Nibble) : Statement (.sneReg x y n) := fieldC_encXYN _ _ _ _
theorem ldI (nnn : Addr12) : Statement (.ldI nnn) := fieldC_encNNN _ _
theorem jpV0 (nnn : Addr12) : Statement (.jpV0 nnn) := fieldC_encNNN _ _
theorem rnd (x : Nibble) (kk : Byte) : Statement (.rnd x kk) := fieldC_encXKK _ _ _
theorem drw (x : Nibble) (y : Nibble) (n : Nibble) : Statement (.drw x y n) := fieldC_encXYN _ _ _ _
theorem skp (x : Nibble) : Statement (.skp x) := fieldC_encXKK _ _ _
theorem sknp (x : Nibble) : Statement (.sknp x) := fieldC_encXKK _ _ _
theorem ldVxDt (x : Nibble) : Statement (.ldVxDt x) := fieldC_encXKK _ _ _
theorem ldVxK (x : Nibble) : Statement (.ldVxK x) := fieldC_encXKK _ _ _
theorem ldDtVx (x : Nibble) : Statement (.ldDtVx x) := fieldC_encXKK _ _ _
theorem ldStVx (x : Nibble) : Statement (.ldStVx x) := fieldC_encXKK _ _ _
theorem addI (x : Nibble) : Statement (.addI x) := fieldC_encXKK _ _ _
theorem ldF (x : Nibble) : Statement (.ldF x) := fieldC_encXKK _ _ _
theorem ldB (x : Nibble) : Statement (.ldB x) := fieldC_encXKK _ _ _
theorem ldMemVx (x : Nibble) : Statement (.ldMemVx x) := fieldC_encXKK _ _ _
theorem ldVxMem (x : Nibble) : Statement (.ldVxMem x) := fieldC_encXKK _ _ _
theorem reserved8 (x : Nibble) (y : Nibble) (n : Nibble) : Statement (.reserved8 x y n) := fieldC_encXYN _ _ _ _
theorem reservedE (x : Nibble) (kk : Byte) : Statement (.reservedE x kk) := fieldC_encXKK _ _ _
theorem reservedF (x : Nibble) (kk : Byte) : Statement (.reservedF x kk) := fieldC_encXKK _ _ _

end Sys2Proof.Laws.EncodingClass
end

