-- ==== Sys2Proof/Laws/Step.lean ====
section
/-!
SUPPORT. The inversion lemma of a step: which of its four forms it takes (40_step_cycle R90), so that no proof unfolds it;
and what one event of a run says about the run before it (R100).
-/

namespace Sys2Proof.Machine

/-- The state in which a live step's instruction executes: the sample taken, tick and poll done (40_step_cycle R91, R92). -/
def State.begun (s : State) : State := s.takeInput.begin s.nextInput

@[simp] theorem State.begun_cfg (s : State) : s.begun.cfg = s.cfg := rfl
@[simp] theorem State.begun_v (s : State) : s.begun.v = s.v := rfl
@[simp] theorem State.begun_pc (s : State) : s.begun.pc = s.pc := rfl
@[simp] theorem State.begun_i (s : State) : s.begun.i = s.i := rfl
@[simp] theorem State.begun_stack (s : State) : s.begun.stack = s.stack := rfl
@[simp] theorem State.begun_dt (s : State) : s.begun.dt = decr s.dt := rfl
@[simp] theorem State.begun_st (s : State) : s.begun.st = decr s.st := rfl
@[simp] theorem State.begun_keys (s : State) : s.begun.keys = s.nextInput.keys := rfl
@[simp] theorem State.begun_kwPending (s : State) : s.begun.kwPending = s.kwPending := rfl
@[simp] theorem State.begun_kwTarget (s : State) : s.begun.kwTarget = s.kwTarget := rfl
@[simp] theorem State.begun_stop (s : State) : s.begun.stop = s.stop := rfl
@[simp] theorem State.begun_fault (s : State) : s.begun.fault = s.fault := rfl
@[simp] theorem State.begun_mem (s : State) : s.begun.mem = s.mem := rfl
@[simp] theorem State.begun_fb (s : State) : s.begun.fb = s.fb := rfl
@[simp] theorem State.begun_contin (s : State) : s.begun.contin = s.contin := rfl
@[simp] theorem State.begun_drawStrobe (s : State) : s.begun.drawStrobe = false := rfl
@[simp] theorem State.begun_rndIn (s : State) : s.begun.rndIn = s.nextInput.rnd := rfl
@[simp] theorem State.begun_inputs (s : State) : s.begun.inputs = s.inputs.tail := rfl
@[simp] theorem State.begun_inputCount (s : State) : s.begun.inputCount = s.inputCount + 1 := rfl
@[simp] theorem State.begun_getV (s : State) (q : Nibble) : s.begun.getV q = s.getV q := rfl
@[simp] theorem State.begun_readMem (s : State) (k : Nat) : s.begun.readMem k = s.readMem k := rfl

@[simp] theorem State.begun_pcPlus2 (s : State) : s.begun.pcPlus2 = s.pcPlus2 := rfl

/-- What the fetch answers, by the bounds (40_step_cycle R95). -/
theorem State.fetch_of_lt {s : State} (h : s.pc.toNat < 4095) :
    s.fetch = some (s.readMem s.pc.toNat, s.readMem (s.pc.toNat + 1)) := if_pos h

theorem State.fetch_of_ge {s : State} (h : 4095 ≤ s.pc.toNat) : s.fetch = none := if_neg (by omega)

/-- A next state of the instruction is finished by the step. -/
theorem finishResult_next {r : Result} {t : State} (h : finishResult r = .next t) : ∃ u, r = .next u ∧ t = u.finish := by
  cases r with
  | next u => exact ⟨u, rfl, by injection h with h; exact h.symm⟩
  | fault f => nomatch f
  | refused f => exact absurd h (by simp [finishResult])

/-- Everything a step that answers can be (40_step_cycle R90): frozen, a key-wait step, a fetch fault, or the execution of
the fetched instruction. -/
theorem step_cases {s t : State} (h : step s = .next t) :
    (s.fault ≠ none ∧ t = s.takeInput.frozen) ∨
    (s.fault = none ∧ s.kwPending = true ∧ t = s.begun.keyWaitStep) ∨
    (s.fault = none ∧ s.kwPending = false ∧ 4095 ≤ s.pc.toNat ∧ t = s.begun.raise .outOfBoundsAccess) ∨
    (∃ i u, s.fault = none ∧ s.kwPending = false ∧ s.pc.toNat < 4095 ∧ s.nextInstr = some i ∧
      exec i s.begun.advance = .next u ∧ t = u.finish) := by
  unfold step stepWith at h
  simp only [State.takeInput_fault] at h
  cases hf : s.fault with
  | some c =>
    rw [hf] at h
    injection h with h
    exact Or.inl ⟨by simp, h.symm⟩
  | none =>
    rw [hf] at h
    change stepLive s.begun = .next t at h
    unfold stepLive at h
    rw [State.begun_kwPending] at h
    cases hk : s.kwPending with
    | true =>
      rw [hk, if_pos rfl] at h
      injection h with h
      exact Or.inr (Or.inl ⟨rfl, rfl, h.symm⟩)
    | false =>
      rw [hk, if_neg Bool.false_ne_true] at h
      by_cases hp : s.pc.toNat < 4095
      · rw [State.fetch_of_lt (s := s.begun) hp] at h
        obtain ⟨u, hu, ht⟩ := finishResult_next h
        have hn : s.nextInstr = some (decodeWord (wordOfBytes (s.readMem s.pc.toNat) (s.readMem (s.pc.toNat + 1)))) :=
          if_pos ⟨hf, hk, hp⟩
        exact Or.inr (Or.inr (Or.inr ⟨_, u, rfl, rfl, hp, hn, hu, ht⟩))
      · rw [State.fetch_of_ge (s := s.begun) (Nat.le_of_not_lt hp)] at h
        injection h with h
        exact Or.inr (Or.inr (Or.inl ⟨rfl, rfl, Nat.le_of_not_lt hp, h.symm⟩))

/-! ## Runs (40_step_cycle R100) -/

/-- An event happens in a run that has not ended, and its state after is the machine's answer to the event. -/
theorem Run.next_some {q r : Run} {e : HostEvent} (h : q.next e = some r) :
    q.ended = false ∧ hostEvent e q.state = .next r.state := by
  unfold Run.next at h
  split at h
  · simp at h
  · rename_i hq
    refine ⟨Bool.eq_false_iff.mpr hq, ?_⟩
    cases e with
    | load _ => simp at h
    | requestStop =>
      injection h with h
      subst h
      rfl
    | step _ =>
      simp only at h
      split at h
      · injection h with h
        subst h
        assumption
      · simp at h
      · simp at h

/-- One more event comes last. -/
theorem State.runAfter_append (s : State) (image : List Byte) (es : List HostEvent) (e : HostEvent) :
    s.runAfter image (es ++ [e]) = (s.runAfter image es).bind (·.next e) := by
  have h : ∀ (es : List HostEvent) (q : Run), Run.after (es ++ [e]) q = (Run.after es q).bind (·.next e) := by
    intro es
    induction es with
    | nil =>
      intro q
      change (q.next e).bind some = q.next e
      cases q.next e <;> rfl
    | cons a es ih =>
      intro q
      simp only [List.cons_append, Run.after]
      cases q.next a <;> simp [ih]
  unfold State.runAfter
  cases Run.ofLoad image s <;> simp [h]

end Sys2Proof.Machine
end

