-- ==== Sys2Proof/Tests/Slice0.lean ====
section
/-!
SUPPORT. Tests of the model, one small fact each. Expected values come from spec/95_test_vectors.md (its vector ids stand in
the comments) or are worked by hand from the rule named; the last part holds a witness for every statement of
Certificates/Slice0/Obligations.lean that has hypotheses.
-/

namespace Sys2Proof.Tests

open Sys2Proof Sys2Proof.Machine

/-! ## Well-formedness: each check refuses an ill-formed term and lets its neighbour pass (30_encoding R75, R78, R79) -/

theorem test_wf_refuses_jp0_00E0 : Instr.wellFormed (.jp0 0x0E0#12) = false := by decide
theorem test_wf_refuses_jp0_00EE : Instr.wellFormed (.jp0 0x0EE#12) = false := by decide
theorem test_wf_accepts_jp0_00E1 : Instr.wellFormed (.jp0 0x0E1#12) = true := by decide
theorem test_wf_refuses_reserved8_defined : ∀ n ∈ defined8, Instr.wellFormed (.reserved8 1#4 2#4 n) = false := by decide
theorem test_wf_accepts_reserved8 : Instr.wellFormed (.reserved8 1#4 2#4 0xD#4) = true := by decide
theorem test_wf_refuses_reservedE_defined : ∀ kk ∈ definedE, Instr.wellFormed (.reservedE 1#4 kk) = false := by decide
theorem test_wf_accepts_reservedE : Instr.wellFormed (.reservedE 1#4 0x9F#8) = true := by decide
theorem test_wf_refuses_reservedF_defined : ∀ kk ∈ definedF, Instr.wellFormed (.reservedF 1#4 kk) = false := by decide
theorem test_wf_accepts_reservedF : Instr.wellFormed (.reservedF 1#4 0x30#8) = true := by decide

/-! ## Decoding: a word of every constructor, in bits from the encoding table (30_encoding R74; 95_test_vectors, Part 2) -/

theorem test_decode_cls : decodeWord 0b0000000011100000#16 = .cls := by decide
theorem test_decode_ret : decodeWord 0b0000000011101110#16 = .ret := by decide
theorem test_decode_jp0 : decodeWord 0b0000001000000000#16 = .jp0 0x200#12 := by decide
theorem test_decode_jp : decodeWord 0b0001001000000000#16 = .jp 0x200#12 := by decide
theorem test_decode_call : decodeWord 0b0010101010111100#16 = .call 0xABC#12 := by decide
theorem test_decode_seImm : decodeWord 0b0011101001111111#16 = .seImm 0xA#4 0x7F#8 := by decide
theorem test_decode_sneImm : decodeWord 0b0100101100000000#16 = .sneImm 0xB#4 0x00#8 := by decide
theorem test_decode_seReg : decodeWord 0b0101000100101111#16 = .seReg 1#4 2#4 0xF#4 := by decide
theorem test_decode_ldImm : decodeWord 0b0110101000000010#16 = .ldImm 0xA#4 0x02#8 := by decide
theorem test_decode_addImm : decodeWord 0b0111101000000101#16 = .addImm 0xA#4 0x05#8 := by decide
theorem test_decode_ldReg : decodeWord 0b1000000100100000#16 = .ldReg 1#4 2#4 := by decide
theorem test_decode_or : decodeWord 0b1000000100100001#16 = .or 1#4 2#4 := by decide
theorem test_decode_and : decodeWord 0b1000000100100010#16 = .and 1#4 2#4 := by decide
theorem test_decode_xor : decodeWord 0b1000000100100011#16 = .xor 1#4 2#4 := by decide
theorem test_decode_addReg : decodeWord 0b1000000100100100#16 = .addReg 1#4 2#4 := by decide
theorem test_decode_sub : decodeWord 0b1000000100100101#16 = .sub 1#4 2#4 := by decide
theorem test_decode_shr : decodeWord 0b1000000100100110#16 = .shr 1#4 2#4 := by decide
theorem test_decode_subn : decodeWord 0b1000000100100111#16 = .subn 1#4 2#4 := by decide
theorem test_decode_shl : decodeWord 0b1000000100101110#16 = .shl 1#4 2#4 := by decide
theorem test_decode_sneReg : decodeWord 0b1001000100100111#16 = .sneReg 1#4 2#4 7#4 := by decide
theorem test_decode_ldI : decodeWord 0b1010001000001100#16 = .ldI 0x20C#12 := by decide
theorem test_decode_jpV0 : decodeWord 0b1011001100000000#16 = .jpV0 0x300#12 := by decide
theorem test_decode_rnd : decodeWord 0b1100000100001111#16 = .rnd 1#4 0x0F#8 := by decide
theorem test_decode_drw : decodeWord 0b1101000100100101#16 = .drw 1#4 2#4 5#4 := by decide
theorem test_decode_skp : decodeWord 0b1110000110011110#16 = .skp 1#4 := by decide
theorem test_decode_sknp : decodeWord 0b1110000110100001#16 = .sknp 1#4 := by decide
theorem test_decode_ldVxDt : decodeWord 0b1111000100000111#16 = .ldVxDt 1#4 := by decide
theorem test_decode_ldVxK : decodeWord 0b1111000100001010#16 = .ldVxK 1#4 := by decide
theorem test_decode_ldDtVx : decodeWord 0b1111000100010101#16 = .ldDtVx 1#4 := by decide
theorem test_decode_ldStVx : decodeWord 0b1111000100011000#16 = .ldStVx 1#4 := by decide
theorem test_decode_addI : decodeWord 0b1111000100011110#16 = .addI 1#4 := by decide
theorem test_decode_ldF : decodeWord 0b1111000100101001#16 = .ldF 1#4 := by decide
theorem test_decode_ldB : decodeWord 0b1111000100110011#16 = .ldB 1#4 := by decide
theorem test_decode_ldMemVx : decodeWord 0b1111000101010101#16 = .ldMemVx 1#4 := by decide
theorem test_decode_ldVxMem : decodeWord 0b1111000101100101#16 = .ldVxMem 1#4 := by decide
theorem test_decode_reserved8 : decodeWord 0b1000000100101000#16 = .reserved8 1#4 2#4 8#4 := by decide
theorem test_decode_reservedE : decodeWord 0b1110000100000000#16 = .reservedE 1#4 0x00#8 := by decide
theorem test_decode_reservedF : decodeWord 0b1111000110000101#16 = .reservedF 1#4 0x85#8 := by decide

/-- The high byte stands first (20_memory R54), and what follows an instruction is left over. -/
theorem test_decode_bytes : decode [0xD1#8, 0x25#8, 0x12#8] = .ok (.drw 1#4 2#4 5#4, [0x12#8]) := by rfl
theorem test_decode_short : decode [0xD1#8] = .error .truncated := by rfl
theorem test_encode_bytes : encodeBytes (.drw 1#4 2#4 5#4) = [0xD1#8, 0x25#8] := by decide

/-! ## One step -/

/-- The reset machine with the word `w` at 512, one sample `keys`, `rnd` lined up, and the changes `f`. -/
def at512 (w : Nat) (f : State → State := id) (keys : Word := 0#16) (rnd : Byte := 0#8) : State :=
  f { State.reset.withFetchWord 16 w with inputs := [⟨keys, rnd⟩] }

/-- The step answers a next state of which `p` holds. -/
def stepsTo (s : State) (p : State → Bool) : Bool :=
  match step s with
  | .next t => p t
  | .fault _ => false
  | .refused _ => false

/-- `PC`, `continue` and the fault code after a step. -/
def ends (t : State) (pc : Word) (cont : Bool) (code : Nat := 0) : Bool :=
  t.pc == pc && t.contin == cont && t.faultOut == code

/-- `V[r] = b`, as a change. -/
def reg (r : Nibble) (b : Byte) (s : State) : State := s.setV r b

/-- `V1 = p`, `V2 = q`, `VF = 0x55`, as a change. -/
def v12 (p q : Byte) (s : State) : State := ((s.setV 1#4 p).setV 2#4 q).setV 15#4 0x55#8

/-- `V1` and `VF` after a step that goes on. -/
def v1f (p f : Byte) (t : State) : Bool := ends t 0x202#16 true && t.getV 1#4 == p && t.getV 15#4 == f

-- Control flow.
/-- CF2: no halt quirk in class 0. -/
theorem test_jp0_to_itself : stepsTo (at512 0x0200) (fun t => ends t 0x200#16 true && !t.stop) = true := by decide
/-- CF4. -/
theorem test_jp0_odd_target : stepsTo (at512 0x00E1) (fun t => ends t 0x0E1#16 true) = true := by decide
/-- CF5. -/
theorem test_ret_pops :
    stepsTo (at512 0x00EE (fun s => { s with stack := [0x20A#16] })) (fun t => ends t 0x20A#16 true && t.sp == 0) = true := by
  decide
/-- CF6. -/
theorem test_ret_underflow : stepsTo (at512 0x00EE) (fun t => ends t 0x202#16 false 3 && t.sp == 0) = true := by decide
/-- CF8. -/
theorem test_jp_to_itself_stops : stepsTo (at512 0x1200) (fun t => ends t 0x200#16 false && t.stop) = true := by decide
/-- CF9, at 512. -/
theorem test_jp_elsewhere : stepsTo (at512 0x1204) (fun t => ends t 0x204#16 true && !t.stop) = true := by decide
/-- CF11, at 512. -/
theorem test_call_pushes :
    stepsTo (at512 0x2210) (fun t => ends t 0x210#16 true && t.stack == [0x202#16]) = true := by decide
/-- CF12. -/
theorem test_call_overflow :
    stepsTo (at512 0x2300 (fun s => { s with stack := List.replicate 16 7#16 }))
      (fun t => ends t 0x202#16 false 4 && t.stack == List.replicate 16 7#16) = true := by decide
/-- CF15, and the same with `PC_WIDTH` = 13, the smallest that holds 4350 (92_eei_decisions D3). -/
theorem test_jpV0_above_memory :
    (stepsTo (at512 0xBFFF (reg 0#4 0xFF#8)) (fun t => ends t 0x10FE#16 false) &&
      stepsTo (at512 0xBFFF (fun s => reg 0#4 0xFF#8 { s with cfg := { s.cfg with pcWidth := 13 } }))
        (fun t => ends t 0x10FE#16 false)) = true := by decide
/-- CF17. -/
theorem test_jpV0_to_itself : stepsTo (at512 0xB200) (fun t => ends t 0x200#16 true && !t.stop) = true := by decide
/-- CF18, at 512. -/
theorem test_seImm_skips : stepsTo (at512 0x3000) (fun t => ends t 0x204#16 true) = true := by decide
/-- CF19, at 512. -/
theorem test_seImm_goes_on : stepsTo (at512 0x3000 (reg 0#4 4#8)) (fun t => ends t 0x202#16 true) = true := by decide
/-- CF22. -/
theorem test_sneImm_skips : stepsTo (at512 0x4311 (reg 3#4 0x10#8)) (fun t => ends t 0x204#16 true) = true := by decide
/-- CF23. -/
theorem test_sneImm_goes_on : stepsTo (at512 0x4310 (reg 3#4 0x10#8)) (fun t => ends t 0x202#16 true) = true := by decide
/-- CF26. -/
theorem test_seReg_alias_skips : stepsTo (at512 0x512F (v12 7#8 7#8)) (fun t => ends t 0x204#16 true) = true := by decide
/-- CF25. -/
theorem test_seReg_goes_on : stepsTo (at512 0x5120 (v12 7#8 8#8)) (fun t => ends t 0x202#16 true) = true := by decide
/-- CF30. -/
theorem test_sneReg_alias_skips : stepsTo (at512 0x9127 (v12 7#8 8#8)) (fun t => ends t 0x204#16 true) = true := by decide
/-- CF29. -/
theorem test_sneReg_goes_on : stepsTo (at512 0x9120 (v12 7#8 7#8)) (fun t => ends t 0x202#16 true) = true := by decide

-- Arithmetic and logic.
/-- AL2. -/
theorem test_ldImm : stepsTo (at512 0x6FFF) (fun t => ends t 0x202#16 true && t.getV 15#4 == 0xFF#8) = true := by decide
/-- AL4: no carry flag. -/
theorem test_addImm_wraps :
    stepsTo (at512 0x7002 (reg 0#4 0xFF#8)) (fun t => ends t 0x202#16 true && t.getV 0#4 == 1#8 && t.getV 15#4 == 0#8) = true := by
  decide
/-- AL7. -/
theorem test_ldReg : stepsTo (at512 0x8EF0 (reg 15#4 1#8)) (fun t => t.getV 14#4 == 1#8 && t.getV 15#4 == 1#8) = true := by decide
/-- AL8, with `VF` = 55. -/
theorem test_or_keeps_flag : stepsTo (at512 0x8121 (v12 0xF0#8 0x0F#8)) (v1f 0xFF#8 0x55#8) = true := by decide
/-- AL9, with `VF` = 55. -/
theorem test_and_keeps_flag : stepsTo (at512 0x8122 (v12 0xF5#8 0x3C#8)) (v1f 0x34#8 0x55#8) = true := by decide
/-- AL10, with `VF` = 55. -/
theorem test_xor_keeps_flag : stepsTo (at512 0x8123 (v12 0xF5#8 0x3C#8)) (v1f 0xC9#8 0x55#8) = true := by decide
/-- S2, first row. -/
theorem test_addReg_carry : stepsTo (at512 0x8124 (v12 0xFF#8 0x01#8)) (v1f 0x00#8 1#8) = true := by decide
/-- AL14 and NP4: with `x` = 15 the flag is last by default, the result under `result_last`. -/
theorem test_addReg_flag_register :
    (stepsTo (at512 0x8F14 (fun s => reg 15#4 0xF0#8 (reg 1#4 0x20#8 s))) (fun t => t.getV 15#4 == 1#8) &&
      stepsTo (at512 0x8F14 (fun s => reg 15#4 0xF0#8 (reg 1#4 0x20#8 { s with cfg := { s.cfg with flagOrder := .resultLast } })))
        (fun t => t.getV 15#4 == 0x10#8)) = true := by decide
/-- S3, first row. -/
theorem test_sub_borrow : stepsTo (at512 0x8125 (v12 0x10#8 0x20#8)) (v1f 0xF0#8 0#8) = true := by decide
/-- S3, third row: equal operands do not borrow. -/
theorem test_sub_equal : stepsTo (at512 0x8125 (v12 0x33#8 0x33#8)) (v1f 0x00#8 1#8) = true := by decide
/-- AL21: `Vx` shifts, `Vy` is ignored. -/
theorem test_shr : stepsTo (at512 0x8126 (v12 0x05#8 0x03#8)) (v1f 0x02#8 1#8) = true := by decide
/-- AL26: with `x` = 15 the flag just written is shifted out. -/
theorem test_shr_flag_register : stepsTo (at512 0x8F16 (reg 15#4 7#8)) (fun t => t.getV 15#4 == 0#8) = true := by decide
/-- AL29. -/
theorem test_subn_keeps_flag : stepsTo (at512 0x8127 (v12 0x30#8 0x10#8)) (v1f 0xE0#8 0x55#8) = true := by decide
/-- NP2. -/
theorem test_subn_not_borrow :
    stepsTo (at512 0x8127 (fun s => v12 0x30#8 0x10#8 { s with cfg := { s.cfg with subnVf := .notBorrow } }))
      (v1f 0xE0#8 0#8) = true := by decide
/-- AL33: `Vx` shifts, `Vy` is ignored. -/
theorem test_shl : stepsTo (at512 0x812E (v12 0x81#8 0x03#8)) (v1f 0x02#8 1#8) = true := by decide
/-- AL40: with `x` = 15 the flag just written is doubled. -/
theorem test_shl_flag_register : stepsTo (at512 0x8F1E (reg 15#4 0xC1#8)) (fun t => t.getV 15#4 == 2#8) = true := by decide
/-- AL42. -/
theorem test_rnd_masks : stepsTo (at512 0xC10F id 0#16 0xA7#8) (fun t => ends t 0x202#16 true && t.getV 1#4 == 7#8) = true := by
  decide
-- Address register and memory.
/-- IM2. -/
theorem test_ldI : stepsTo (at512 0xAFFF) (fun t => ends t 0x202#16 true && t.i == 0x0FFF#16) = true := by decide
/-- IM3: above 4095, no flag, no fault. -/
theorem test_addI_above_memory :
    stepsTo (at512 0xF11E (fun s => v12 5#8 0#8 (s.setI 0x0FFE#16))) (fun t => v1f 5#8 0x55#8 t && t.i == 0x1003#16) = true := by
  decide
/-- IM4. -/
theorem test_addI_wraps :
    stepsTo (at512 0xF11E (fun s => reg 1#4 2#8 (s.setI 0xFFFF#16))) (fun t => ends t 0x202#16 true && t.i == 1#16) = true := by
  decide
/-- IM9: no mask. -/
theorem test_ldF_unmasked : stepsTo (at512 0xF029 (reg 0#4 0xFF#8)) (fun t => ends t 0x202#16 true && t.i == 0x04FB#16) = true := by
  decide
/-- IM15. -/
theorem test_ldB_last_bytes :
    stepsTo (at512 0xF033 (fun s => reg 0#4 0x7B#8 (s.setI 0x0FFD#16)))
      (fun t => ends t 0x202#16 true && t.readMem 0xFFD == 1#8 && t.readMem 0xFFE == 2#8 && t.readMem 0xFFF == 3#8) = true := by
  decide
/-- IM16. -/
theorem test_ldB_faults_partway :
    stepsTo (at512 0xF033 (fun s => reg 0#4 0x7B#8 (s.setI 0x0FFE#16)))
      (fun t => ends t 0x202#16 false 1 && t.readMem 0xFFE == 1#8 && t.readMem 0xFFF == 2#8) = true := by decide
/-- IM18. -/
theorem test_ldMemVx_only_v0 :
    stepsTo (at512 0xF055 (fun s => reg 0#4 0x0B#8 (reg 1#4 0x77#8 (s.setI 0x304#16))))
      (fun t => ends t 0x202#16 true && t.readMem 0x304 == 0x0B#8 && t.readMem 0x305 == 0#8 && t.i == 0x304#16) = true := by
  decide
/-- IM19. -/
theorem test_ldMemVx_faults_partway :
    stepsTo (at512 0xF255 (fun s => reg 0#4 1#8 (reg 1#4 2#8 (reg 2#4 3#8 (s.setI 0xFFE#16)))))
      (fun t => ends t 0x202#16 false 1 && t.readMem 0xFFE == 1#8 && t.readMem 0xFFF == 2#8 && t.i == 0xFFE#16) = true := by
  decide
/-- IM21. -/
theorem test_ldVxMem :
    stepsTo (at512 0xF265 (fun s =>
        ((((s.writeMem 0x300 2#8).writeMem 0x301 5#8).writeMem 0x302 4#8).writeMem 0x303 9#8).setI 0x300#16))
      (fun t => ends t 0x202#16 true && t.getV 0#4 == 2#8 && t.getV 1#4 == 5#8 && t.getV 2#4 == 4#8 && t.getV 3#4 == 0#8) =
      true := by decide
/-- IM22. -/
theorem test_ldVxMem_faults_partway :
    stepsTo (at512 0xF165 (fun s => reg 1#4 0x11#8 ((s.writeMem 0xFFF 0x42#8).setI 0xFFF#16)))
      (fun t => ends t 0x202#16 false 1 && t.getV 0#4 == 0x42#8 && t.getV 1#4 == 0x11#8) = true := by decide

-- Display.
/-- DR1. -/
theorem test_cls :
    stepsTo (at512 0x00E0 (fun s => reg 15#4 1#8 { s with fb := (s.fb.set 0 0xFFFFFFFFFFFFFFFF#64).set 31 1#64 }))
      (fun t => ends t 0x202#16 true && t.fb[0] == 0#64 && t.fb[31] == 0#64 && t.getV 15#4 == 1#8 && !t.drawStrobe) = true := by
  decide +kernel
/-- DR5: the start wraps. -/
theorem test_drw_start_wraps :
    stepsTo (at512 0xD011 (fun s => reg 0#4 0x46#8 (reg 1#4 0x21#8 ((s.writeMem 0x300 0x81#8).setI 0x300#16))))
      (fun t => ends t 0x202#16 true && t.fb[1] == 0x0204000000000000#64 && t.getV 15#4 == 0#8 && t.drawStrobe) = true := by
  decide +kernel
/-- DR14: a collision, and the XOR. -/
theorem test_drw_collides :
    stepsTo (at512 0xD011 (fun s =>
        { (s.writeMem 0x300 0xC0#8).setI 0x300#16 with fb := s.fb.set 0 0x4000000000000000#64 }))
      (fun t => t.fb[0] == 0x8000000000000000#64 && t.getV 15#4 == 1#8) = true := by decide +kernel

-- Timers and keypad.
/-- TK1: the tick comes first. -/
theorem test_ldVxDt_after_tick :
    stepsTo (at512 0xF007 (fun s => s.setDt 0x0A#8)) (fun t => ends t 0x202#16 true && t.getV 0#4 == 9#8 && t.dt == 9#8) = true := by
  decide
/-- TK4. -/
theorem test_ldDtVx : stepsTo (at512 0xF015 (fun s => reg 0#4 0x0A#8 (s.setDt 3#8))) (fun t => t.dt == 0x0A#8) = true := by decide
/-- TK5. -/
theorem test_ldStVx : stepsTo (at512 0xF218 (fun s => reg 2#4 3#8 (s.setSt 9#8))) (fun t => t.st == 3#8) = true := by decide
/-- TK10. -/
theorem test_skp_key_down : stepsTo (at512 0xE19E (reg 1#4 0x0F#8) 0x8000#16) (fun t => ends t 0x204#16 true) = true := by decide
/-- TK12. -/
theorem test_skp_no_such_key : stepsTo (at512 0xE19E (reg 1#4 0x10#8) 0xFFFF#16) (fun t => ends t 0x202#16 false 1) = true := by
  decide
/-- TK13. -/
theorem test_sknp_key_down : stepsTo (at512 0xE1A1 (reg 1#4 4#8) 0x0010#16) (fun t => ends t 0x202#16 true) = true := by decide
/-- TK14. -/
theorem test_sknp_key_up : stepsTo (at512 0xE1A1 (reg 1#4 4#8) 0x0000#16) (fun t => ends t 0x204#16 true) = true := by decide
/-- TK18, at 512: the executing step does not look at the keys. -/
theorem test_ldVxK_enters :
    stepsTo (at512 0xF30A id 0x0090#16)
      (fun t => ends t 0x202#16 true && t.kwPending && t.kwTarget == 3#4 && t.getV 3#4 == 0#8 && t.keys == 0x90#16) = true := by
  decide
/-- TK20: the lowest key wins, nothing is fetched. -/
theorem test_key_wait_resolves :
    stepsTo { at512 0x6055 (fun s => s.setDt 9#8) 0x0090#16 with kwPending := true, kwTarget := 3#4 }
      (fun t => ends t 0x200#16 true && !t.kwPending && t.getV 3#4 == 4#8 && t.getV 0#4 == 0#8 && t.dt == 8#8) = true := by
  decide
/-- TK21: `continue` is 1 although `STOP` is 1. -/
theorem test_key_wait_ignores_stop :
    stepsTo { at512 0x6055 id 0x8000#16 with kwPending := true, kwTarget := 15#4, stop := true }
      (fun t => ends t 0x200#16 true && !t.kwPending && t.getV 15#4 == 15#8) = true := by decide

-- Reserved words.
/-- AL41: the fault's step has ticked. -/
theorem test_reserved8_faults :
    stepsTo (at512 0x8128 (fun s => reg 1#4 1#8 (s.setDt 5#8)))
      (fun t => ends t 0x202#16 false 2 && t.getV 1#4 == 1#8 && t.dt == 4#8) = true := by decide
/-- TK16. -/
theorem test_reservedE_faults : stepsTo (at512 0xE19F (reg 1#4 4#8)) (fun t => ends t 0x202#16 false 2) = true := by decide
/-- NP6. -/
theorem test_reservedE_nop :
    stepsTo (at512 0xE19F (fun s => { s with cfg := { s.cfg with reservedEf := .nop } })) (fun t => ends t 0x202#16 true) = true := by
  decide
/-- TK17. -/
theorem test_reservedF_faults : stepsTo (at512 0xF175) (fun t => ends t 0x202#16 false 2) = true := by decide
/-- NP7. -/
theorem test_reservedF_nop :
    stepsTo (at512 0xF175 (fun s => { s with cfg := { s.cfg with reservedEf := .nop } })) (fun t => ends t 0x202#16 true) = true := by
  decide

-- The step and the host's events.
/-- SC1: a normal end. -/
theorem test_runs_off_the_end :
    stepsTo { ((State.reset.writeMem 0xFFE 0x60#8).writeMem 0xFFF 1#8) with pc := 0xFFE#16 }
      (fun t => ends t 0x1000#16 false && t.getV 0#4 == 1#8) = true := by decide
/-- SC2. -/
theorem test_fetch_at_4095 : stepsTo (State.reset.setPc 0xFFF#16) (fun t => ends t 0xFFF#16 false 1) = true := by decide
/-- SC4: with `STOP` set the instruction still executes. -/
theorem test_stop_executes :
    stepsTo (at512 0x6001 State.requestStop) (fun t => ends t 0x202#16 false && t.getV 0#4 == 1#8) = true := by decide
/-- SC6. -/
theorem test_faulted_is_frozen :
    stepsTo (at512 0x6001 (fun s => { s.setDt 5#8 with fault := some .unsupportedOpcode }))
      (fun t => ends t 0x200#16 false 2 && t.dt == 5#8 && t.getV 0#4 == 0#8) = true := by decide
/-- S1 (a) and the font's first and last bytes (20_memory R53). -/
theorem test_load :
    (match State.reset.load [0x12#8, 0x00#8] with
      | .next t => t.readMem 0x200 == 0x12#8 && t.readMem 0x201 == 0#8 && t.readMem 0 == 0xF0#8 && t.readMem 79 == 0x80#8 &&
          t.pc == 0x200#16
      | .fault _ => false
      | .refused _ => false) = true := by decide
/-- 40_step_cycle R100: no run has ended before its first step, though no `continue` has been output. -/
theorem test_run_not_ended_at_load : (State.reset.runAfter [0x12#8, 0x00#8] []).map Run.ended = some false := by decide
/-- S6: `1200` halts in its first step. -/
theorem test_run_halts :
    (State.reset.runAfter [0x12#8, 0x00#8] [.step ⟨0#16, 0#8⟩]).map
      (fun r => r.ended && r.state.fault == none && r.state.pc == 0x200#16 && r.steps == 1) = some true := by decide
/-- AL41: a run that fails. -/
theorem test_run_fails :
    (State.reset.runAfter [0x81#8, 0x28#8] [.step ⟨0#16, 0#8⟩]).map
      (fun r => r.ended && r.state.fault == some .unsupportedOpcode) = some true := by decide
/-- 40_step_cycle R100: the step that answers 0 is the run's last. -/
theorem test_run_is_over : State.reset.runAfter [0x12#8, 0x00#8] [.step ⟨0#16, 0#8⟩, .step ⟨0#16, 0#8⟩] = none := by decide
/-- 40_step_cycle R100: a further step, outside the run, executes like any other (the `RequestStop` sequence of Part 3). -/
theorem test_no_halt_latch :
    stepsTo (at512 0x7001 (fun s => { s.setStop with contin := false })) (fun t => ends t 0x202#16 false && t.getV 0#4 == 1#8) =
      true := by decide
/-- The reset state places and runs a word: `6A02` of S7 (the host's interface). -/
theorem test_decodeTableWord : decodeTableWord 16 0x6A02 = some (.ldImm 0xA#4 0x02#8) := by decide
theorem test_withFetchWord :
    stepsTo (State.reset.withFetchWord 16 0x6A02) (fun t => ends t 0x202#16 true && t.getV 0xA#4 == 2#8) = true := by decide

/-! ## Witnesses: for each statement with hypotheses, a state and operands that meet them, clause by clause at its bounds -/

/-- `PC` at the last address whose fetch fits, after a program has stored there. -/
def atEdge : State := { State.reset with pc := 4094#16, mem := [(4094, 0x12#8), (4095, 0x34#8)], stack := [4096#16] }

/-- A machine in key-wait, keys 4 and 7 shown next. -/
def waiting : State := { State.reset with kwPending := true, kwTarget := 3#4, inputs := [⟨0x0090#16, 0#8⟩] }

/-- A faulted machine with a tick pending and one sample lined up. -/
def faulted : State :=
  { State.reset with fault := some .stackOverflow, dt := 5#8, inputs := [⟨0#16, 0#8⟩] }

/-- The reset machine with another configuration. -/
def withCfg (f : Config → Config) : State := { State.reset with cfg := f State.reset.cfg }

theorem witness_DecodeOfEncode : Instr.wellFormed (.reserved8 1#4 2#4 0xF#4) = true ∧ Instr.wellFormed (.jp0 0x0E1#12) = true := by
  decide
theorem witness_ClassZero_words : (0x00E0#16).toNat < 0x1000 ∧ (0x00EE#16).toNat < 0x1000 ∧ (0x0FFF#16).toNat < 0x1000 := by decide
theorem witness_ClassZero_load : (∃ t, atEdge.load [] = .next t) ∧ 80 ≤ 80 ∧ 80 < 4095 ∧ 80 ≤ 4094 ∧ 4094 < 4095 :=
  ⟨⟨_, rfl⟩, by decide⟩
theorem witness_StepExecutes :
    atEdge.fault = none ∧ atEdge.kwPending = false ∧ atEdge.pc.toNat < 4095 ∧
      decode [atEdge.readMem atEdge.pc.toNat, atEdge.readMem (atEdge.pc.toNat + 1)] = .ok (.jp 0x234#12, []) := by
  refine ⟨by decide, by decide, by decide, rfl⟩
theorem witness_FetchOutside_4095 :
    (atEdge.setPc 4095#16).fault = none ∧ (atEdge.setPc 4095#16).kwPending = false ∧ 4095 ≤ (atEdge.setPc 4095#16).pc.toNat := by decide
theorem witness_FetchOutside_4096 :
    (atEdge.setPc 4096#16).fault = none ∧ (atEdge.setPc 4096#16).kwPending = false ∧ 4095 ≤ (atEdge.setPc 4096#16).pc.toNat := by decide
theorem witness_Faulted :
    faulted.fault = some .stackOverflow ∧ faulted.drawStrobe = false ∧ ∃ t, faulted.load [0x12#8] = .next t := ⟨rfl, rfl, _, rfl⟩
theorem witness_KeyWait_key : waiting.fault = none ∧ waiting.kwPending = true ∧ waiting.nextInput.keys ≠ 0#16 := by decide
theorem witness_KeyWait_no_key :
    { waiting with inputs := [⟨0#16, 7#8⟩] }.fault = none ∧ { waiting with inputs := [⟨0#16, 7#8⟩] }.kwPending = true ∧
      { waiting with inputs := [⟨0#16, 7#8⟩] }.nextInput.keys = 0#16 := by decide
theorem witness_KeyWaitResolves :
    waiting.fault = none ∧ waiting.kwPending = true ∧ waiting.nextInput.keys.getLsbD 4 = true ∧
      ∀ j < 4, waiting.nextInput.keys.getLsbD j = false := by decide
theorem witness_KeyWaitResolves_last :
    { waiting with inputs := [⟨0x8000#16, 0#8⟩] }.nextInput.keys.getLsbD 15 = true ∧
      ∀ j < 15, { waiting with inputs := [⟨0x8000#16, 0#8⟩] }.nextInput.keys.getLsbD j = false := by decide
theorem witness_KeyWaitLasts :
    ∃ polls rest : List StepInput, polls ≠ [] ∧ { waiting with inputs := [⟨0#16, 1#8⟩, ⟨0#16, 2#8⟩] }.inputs = polls ++ rest ∧
      ∀ inp ∈ polls, inp.keys = 0#16 := ⟨[⟨0#16, 1#8⟩, ⟨0#16, 2#8⟩], [], by decide⟩

/-- A step that answers, with the instruction it executes. -/
def runs (s : State) (i : Option Instr) : Bool := stepsTo s (fun _ => true) && s.nextInstr == i && s.fault == none

theorem witness_Timers_other : runs (at512 0x6001 (fun s => s.setDt 1#8)) (some (.ldImm 0#4 1#8)) = true := by decide
theorem witness_Timers_dt : runs (at512 0xF015) (some (.ldDtVx 0#4)) = true := by decide
theorem witness_Timers_st : runs (at512 0xF018) (some (.ldStVx 0#4)) = true := by decide
theorem witness_Timers_read : runs (at512 0xF007 (fun s => s.setDt 1#8)) (some (.ldVxDt 0#4)) = true := by decide
theorem witness_Keys : runs (at512 0x1200 id 0xFFFF#16) (some (.jp 0x200#12)) = true := by decide
theorem witness_Continue : runs (at512 0x00EE) (some .ret) = true := by decide
theorem witness_DrawStrobe : runs (at512 0xD011) (some (.drw 0#4 1#4 1#4)) = true := by decide
theorem witness_Faults_fetch : runs (atEdge.setPc 4095#16) none = true := by decide
theorem witness_Faults_ldB : runs (at512 0xF033 (fun s => s.setI 4094#16)) (some (.ldB 0#4)) = true := by decide
theorem witness_Faults_ldMemVx : runs (at512 0xF155 (fun s => s.setI 4095#16)) (some (.ldMemVx 1#4)) = true := by decide
theorem witness_Faults_ldVxMem : runs (at512 0xF165 (fun s => s.setI 4095#16)) (some (.ldVxMem 1#4)) = true := by decide
theorem witness_Faults_skp : runs (at512 0xE19E (reg 1#4 16#8)) (some (.skp 1#4)) = true := by decide
theorem witness_Faults_reserved8 : runs (at512 0x812D) (some (.reserved8 1#4 2#4 0xD#4)) = true := by decide
theorem witness_Faults_reservedF : runs (at512 0xF130) (some (.reservedF 1#4 0x30#8)) = true := by decide
theorem witness_Faults_call :
    runs (at512 0x2300 (fun s => { s with stack := List.replicate 16 7#16 })) (some (.call 0x300#12)) = true := by decide
theorem witness_Stop_jump : runs (at512 0x1200) (some (.jp 0x200#12)) = true ∧ 13 ≤ (at512 0x1200).cfg.pcWidth := by decide
theorem witness_Stop_load : ∃ t, (at512 0x1200).requestStop.load [] = .next t := ⟨_, rfl⟩
theorem witness_RequestStop_waits : stepsTo waiting (fun _ => true) = true ∧ waiting.fault = none ∧ waiting.kwPending = true := by decide
theorem witness_RequestStop_faulted : stepsTo faulted (fun _ => true) = true ∧ faulted.fault ≠ none := by decide

/-- The invariant holds of a state that holds a full memory address, a saved 4096 and `PC` at the last fetchable address. -/
theorem witness_Inv : atEdge.Inv ∧ ∃ t, step atEdge = .next t := ⟨by decide, _, rfl⟩
theorem witness_Inv_host : atEdge.Inv ∧ (∃ t, hostEvent (.load [0x12#8, 0x00#8]) atEdge = .next t) ∧
    (∃ t, hostEvent (.step ⟨1#16, 2#8⟩) atEdge = .next t) ∧ ∃ t, hostEvent .requestStop atEdge = .next t :=
  ⟨by decide, ⟨_, rfl⟩, ⟨_, rfl⟩, _, rfl⟩
theorem witness_PcWidths : atEdge.Inv ∧ 13 ≤ 13 ∧ ∃ t, step atEdge = .next t := ⟨by decide, by decide, _, rfl⟩
theorem witness_Run_start : ∃ r, State.reset.runAfter [0x12#8, 0x00#8] [] = some r := ⟨_, rfl⟩
theorem witness_Run_event : ∃ r, State.reset.runAfter [0x60#8, 0x01#8] ([.step ⟨0#16, 0#8⟩] ++ [.requestStop]) = some r := ⟨_, rfl⟩
theorem witness_Run_halted :
    ∃ r, State.reset.runAfter [0x12#8, 0x00#8] [.step ⟨0#16, 0#8⟩] = some r ∧ r.ended = true ∧ r.Halted := ⟨_, rfl, by decide, by decide⟩
theorem witness_Run_failed :
    ∃ r, State.reset.runAfter [0x81#8, 0x28#8] [.step ⟨0#16, 0#8⟩] = some r ∧ r.ended = true ∧ r.Failed := ⟨_, rfl, by decide, by decide⟩
theorem witness_CanonicalMemories :
    ∃ m m' : Memory, m ≠ [] ∧ Memory.wf defaultConfig m = true ∧ Memory.wf defaultConfig m' = true ∧
      ∀ a < 4096, Memory.read defaultConfig m a = Memory.read defaultConfig m' a :=
  ⟨atEdge.mem, atEdge.mem, by decide, by decide, by decide, fun _ _ => rfl⟩
theorem witness_Load_longest : (List.replicate 3584 0x12#8).length ≤ 3584 := Nat.le_of_eq List.length_replicate
theorem witness_Load_oversize : 3584 < (List.replicate 3585 0x12#8).length :=
  Nat.lt_of_lt_of_eq (Nat.lt_succ_self 3584) List.length_replicate.symm
theorem witness_ResetIsTheLoad :
    { atEdge with inputs := [] }.cfg = defaultConfig ∧ { atEdge with inputs := [] }.inputs = [] ∧
      { atEdge with inputs := [] }.inputCount = 0 := by decide

theorem witness_JumpToItself :
    (0x200#12).toNat + 2 = (at512 0x1200).advance.pc.toNat ∧ (0x204#12).toNat + 2 ≠ (at512 0x1204).advance.pc.toNat := by decide
theorem witness_Call_room :
    { State.reset with stack := List.replicate 15 7#16 }.sp < { State.reset with stack := List.replicate 15 7#16 }.cfg.stackDepth := by
  decide
theorem witness_Call_full :
    { State.reset with stack := List.replicate 16 7#16 }.fault = none ∧
      { State.reset with stack := List.replicate 16 7#16 }.sp = { State.reset with stack := List.replicate 16 7#16 }.cfg.stackDepth := by
  decide
theorem witness_Return : atEdge.stack = [] ++ [4096#16] ∧ State.reset.fault = none ∧ State.reset.sp = 0 := by decide
theorem witness_ReturnUndoesCall :
    ∃ t u : State, State.reset.sp < State.reset.cfg.stackDepth ∧ exec (.call 0x300#12) State.reset = .next t ∧ u.stack = t.stack ∧
      u.v ≠ State.reset.v := ⟨_, (State.reset.setV 1#4 9#8).pushAndJump 512#16 0#16, by decide, rfl, by decide, by decide⟩
theorem witness_Skips_pc : 13 ≤ State.reset.cfg.pcWidth ∧ (State.reset.setPc 4350#16).pc.toNat ≤ 4350 := by decide
theorem witness_Skips : State.reset.getV 0#4 = 0#8 ∧ State.reset.getV 0#4 ≠ 1#8 ∧ State.reset.getV 0#4 = State.reset.getV 1#4 ∧
    (reg 0#4 1#8 State.reset).getV 0#4 ≠ (reg 0#4 1#8 State.reset).getV 1#4 := by decide
theorem witness_PcAfter :
    ∃ t, 13 ≤ State.reset.cfg.pcWidth ∧ State.reset.pc.toNat ≤ 4350 ∧ State.reset.fault = none ∧
      exec (.seImm 0#4 0#8) State.reset = .next t ∧ t.fault = none := ⟨_, by decide, by decide, by decide, rfl, by decide⟩
theorem witness_PcAfter_jumps :
    (∃ t, exec (.call 0xFFF#12) State.reset = .next t ∧ t.fault = none) ∧
      (∃ t, exec (.jpV0 0xFFF#12) (reg 0#4 0xFF#8 State.reset) = .next t ∧ t.fault = none) ∧
      ∃ t, exec .ret atEdge = .next t ∧ t.fault = none := ⟨⟨_, rfl, by decide⟩, ⟨_, rfl, by decide⟩, _, rfl, by decide⟩
theorem witness_PcAfter_others : ∃ t, exec (.ldVxMem 15#4) State.reset = .next t ∧ t.fault = none := ⟨_, rfl, by decide⟩

theorem witness_IndexAdd_16 : State.reset.cfg.iWidth ≤ 16 ∧ State.reset.cfg.iWidth = 16 := by decide
theorem witness_IndexAdd_12 : (withCfg fun c => { c with iWidth := 12 }).cfg.iWidth ≤ 16 := by decide
theorem witness_Bcd_fits : (State.reset.setI 4093#16).i.toNat + 2 < 4096 := by decide
theorem witness_Bcd_faults : (State.reset.setI 4094#16).fault = none ∧ 4096 ≤ (State.reset.setI 4094#16).i.toNat + 2 := by decide
theorem witness_Registers_fit : (State.reset.setI 4080#16).i.toNat + (15#4).toNat < 4096 := by decide
theorem witness_Registers_fault :
    (State.reset.setI 4081#16).fault = none ∧ 4096 ≤ (State.reset.setI 4081#16).i.toNat + (15#4).toNat := by decide
theorem witness_LoadAfterStore :
    ∃ t u : State, (State.reset.setI 4094#16).i.toNat + (1#4).toNat < 4096 ∧
      exec (.ldMemVx 1#4) (reg 0#4 7#8 (State.reset.setI 4094#16)) = .next t ∧ u.mem = t.mem ∧ u.cfg = t.cfg ∧ u.i = t.i ∧ u.v ≠ t.v :=
  ⟨_, (State.reset.setI 4094#16).writeMem 4094 7#8, by decide, rfl, by decide, by decide, by decide, by decide⟩
theorem witness_StoredBytes :
    ∃ t u : State, (State.reset.setI 768#16).i.toNat + (1#4).toNat < 4096 ∧ 0 < (1#4).toNat ∧
      exec (.ldMemVx 1#4) (reg 0#4 7#8 (State.reset.setI 768#16)) = .next t ∧ u.mem = t.mem ∧ u.cfg = t.cfg ∧
      u.pc.toNat = (State.reset.setI 768#16).i.toNat + 0 ∧ u.fault = none ∧ u.kwPending = false :=
  ⟨_, (State.reset.setPc 768#16).writeMem 768 7#8, by decide, by decide, rfl, by decide, by decide, by decide, by decide, by decide⟩

/-- A state whose sprite byte is `0x80` and whose display has the top left pixel set. -/
def pixelSet : State := { (State.reset.writeMem 0x300 0x80#8).setI 0x300#16 with fb := State.reset.fb.set 0 0x8000000000000000#64 }

theorem witness_Draw_collision : ∃ r c, pixelSet.pixel r c = true ∧ pixelSet.spritePixel 0#4 1#4 1#4 r c = true :=
  ⟨0, 0, by decide +kernel⟩
theorem witness_Draw_none :
    ∀ r c, ¬ (State.reset.pixel r c = true ∧ State.reset.spritePixel 0#4 1#4 0#4 r c = true) := by
  rintro r c ⟨-, h⟩
  have hh := of_decide_eq_true (Bool.and_eq_true_iff.mp h).1
  have h0 : (0#4).toNat = 0 := rfl
  omega
theorem witness_DrawingTwice : 0#4 ≠ 15#4 ∧ 1#4 ≠ 15#4 ∧ ∃ t, exec (.drw 0#4 1#4 1#4) pixelSet = .next t := ⟨by decide, by decide, _, rfl⟩

theorem witness_KeySkips_index :
    ((reg 1#4 15#8 State.reset).getV 1#4).toNat ≤ 15 := by decide
theorem witness_KeySkips_mask4 : (withCfg fun c => { c with keyIndexOor := .mask4 }).cfg.keyIndexOor = .mask4 := by decide
theorem witness_KeySkips_fault :
    State.reset.fault = none ∧ 15 < ((reg 1#4 16#8 State.reset).getV 1#4).toNat ∧ State.reset.cfg.keyIndexOor = .fault := by decide
theorem witness_WaitForKey :
    State.reset.fault = none ∧ ∃ u, step (State.reset.enterKeyWait 3#4).finish = .next u := ⟨by decide, _, rfl⟩
theorem witness_Reserved_fault : State.reset.fault = none ∧ State.reset.cfg.reservedEf = .fault := by decide
theorem witness_Reserved_nop : (withCfg fun c => { c with reservedEf := .nop }).cfg.reservedEf = .nop := by decide
theorem witness_Elements_memory :
    ∃ t, exec (.ldB 0#4) ((reg 0#4 255#8 State.reset).setI 0x300#16) = .next t ∧ t.mem ≠ State.reset.mem := ⟨_, rfl, by decide⟩
theorem witness_Elements_stack : ∃ t, exec (.call 0x300#12) State.reset = .next t ∧ t.stack ≠ State.reset.stack := ⟨_, rfl, by decide⟩
theorem witness_Elements_index : ∃ t, exec (.ldI 0x300#12) State.reset = .next t ∧ t.i ≠ State.reset.i := ⟨_, rfl, by decide⟩
theorem witness_Elements_timers :
    (∃ t, exec (.ldDtVx 0#4) (reg 0#4 9#8 State.reset) = .next t ∧ t.dt ≠ State.reset.dt) ∧
      ∃ t, exec (.ldStVx 0#4) (reg 0#4 9#8 State.reset) = .next t ∧ t.st ≠ State.reset.st := ⟨⟨_, rfl, by decide⟩, _, rfl, by decide⟩
theorem witness_Elements_wait : ∃ t, exec (.ldVxK 3#4) State.reset = .next t ∧ t.kwPending ≠ State.reset.kwPending :=
  ⟨_, rfl, by decide⟩
theorem witness_Elements_stop :
    ∃ t, exec (.jp 0x200#12) (State.reset.setPc 0x202#16) = .next t ∧ t.stop ≠ State.reset.stop := ⟨_, rfl, by decide⟩
theorem witness_Elements_display : ∃ t, exec .cls pixelSet = .next t ∧ t.fb ≠ pixelSet.fb := ⟨_, rfl, by decide +kernel⟩
theorem witness_Registers_change :
    ∃ t, exec (.ldImm 1#4 7#8) State.reset = .next t ∧ t.getV 1#4 ≠ State.reset.getV 1#4 := ⟨_, rfl, by decide⟩
theorem witness_Registers_change_flag :
    ∃ t, exec (.addReg 1#4 2#4) (v12 1#8 1#8 State.reset) = .next t ∧ t.getV 15#4 ≠ (v12 1#8 1#8 State.reset).getV 15#4 :=
  ⟨_, rfl, by decide⟩
theorem witness_RandomByte : (∀ x kk, Instr.cls ≠ .rnd x kk) ∧ ∃ t, exec .cls State.reset = .next t :=
  ⟨fun _ _ => Instr.noConfusion, _, rfl⟩
theorem witness_SoundTimer : ∃ t, step (at512 0xF018 (reg 0#4 3#8)) = .next t := ⟨_, rfl⟩

end Sys2Proof.Tests
end

/-! # The invariant (10_state R20, R23 to R25): each operation keeps it, then each instruction, step and host event -/

namespace Sys2Proof.Machine

/-! ## Bounds -/

theorem zextAddr_lt (nnn : Addr12) : (zextAddr nnn).toNat < 4096 := by
  have h := nnn.isLt
  simp only [zextAddr, BitVec.toNat_setWidth]
  omega

theorem State.indexSum_lt (s : State) (x : Nibble) : (s.indexSum x).toNat < 2 ^ s.cfg.iWidth := by
  rw [State.indexSum, BitVec.toNat_ofNat]
  exact Nat.lt_of_le_of_lt (Nat.mod_le _ _) (Nat.mod_lt _ (Nat.two_pow_pos _))

theorem State.glyphAddr_lt (s : State) (x : Nibble) : (s.glyphAddr x).toNat < 4096 := by
  have h := (s.getV x).isLt
  rw [State.glyphAddr, BitVec.toNat_ofNat]
  exact Nat.lt_of_le_of_lt (Nat.mod_le _ _) (by omega)

/-- `Bnnn` reaches 4350 at most, 4095 and 255 (10_state R23). -/
theorem State.offsetTarget_le (s : State) (nnn : Addr12) : (s.offsetTarget nnn).toNat ≤ 4350 := by
  have hle := Config.pcValue_le s.cfg ((s.getV 0#4).toNat + nnn.toNat)
  have hv := (s.getV 0#4).isLt
  have hn := nnn.isLt
  rw [State.offsetTarget]
  omega

/-- Where the fetch succeeds, `PC` is inside `MEM` or at its end when the instruction executes (40_step_cycle R95). -/
theorem State.advance_pc_le {s : State} (h : s.pc.toNat < 4095) : s.advance.pc.toNat ≤ 4096 := by
  have hle := Config.pcValue_le s.cfg (s.pc.toNat + 2)
  rw [State.advance_pc, State.pcPlus2]
  omega

/-! ## Operations on fields that the invariant constrains -/

section
variable {s : State}

theorem State.Inv.valid (h : s.Inv) : s.cfg.Valid := h.1

/-- Every address of `MEM` fits `I` at each valid width (10_state R24). -/
theorem State.Inv.lt_two_pow_iWidth (h : s.Inv) {n : Nat} (hn : n < 4096) : n < 2 ^ s.cfg.iWidth := by
  obtain ⟨-, hwidth, -⟩ := h.valid
  exact Nat.lt_of_lt_of_le hn (Nat.pow_le_pow_right (n := 2) (by decide) hwidth)

theorem State.Inv.setPc (h : s.Inv) {w : Word} (hw : w.toNat ≤ 4350) : (s.setPc w).Inv := by
  obtain ⟨hcfg, hmem, hlen, hent, -, hi, hkw, hout⟩ := h
  exact ⟨hcfg, hmem, hlen, hent, hw, hi, hkw, hout⟩

theorem State.Inv.setI (h : s.Inv) {w : Word} (hw : w.toNat < 2 ^ s.cfg.iWidth) : (s.setI w).Inv := by
  obtain ⟨hcfg, hmem, hlen, hent, hpc, -, hkw, hout⟩ := h
  exact ⟨hcfg, hmem, hlen, hent, hpc, hw, hkw, hout⟩

/-- A fault raised outside key-wait keeps the invariant: `raise` itself clears the two outputs (60_exceptions R203). -/
theorem State.Inv.raise (h : s.Inv) (hk : s.kwPending = false) (f : FaultCode) : (s.raise f).Inv := by
  obtain ⟨hcfg, hmem, hlen, hent, hpc, hi, -, -⟩ := h
  exact ⟨hcfg, hmem, hlen, hent, hpc, hi, by simp [hk], fun _ => ⟨rfl, rfl⟩⟩

/-- Outputs and key-wait of a machine that is not faulted are free. -/
theorem State.Inv.withOutputs (h : s.Inv) (hf : s.fault = none) (p c d : Bool) :
    { s with kwPending := p, contin := c, drawStrobe := d }.Inv := by
  obtain ⟨hcfg, hmem, hlen, hent, hpc, hi, -, -⟩ := h
  exact ⟨hcfg, hmem, hlen, hent, hpc, hi, fun _ => hf, fun hne => absurd hf hne⟩

theorem State.Inv.frozen (h : s.Inv) : s.frozen.Inv := by
  obtain ⟨hcfg, hmem, hlen, hent, hpc, hi, hkw, -⟩ := h
  exact ⟨hcfg, hmem, hlen, hent, hpc, hi, hkw, fun _ => ⟨rfl, rfl⟩⟩

theorem State.Inv.finish (h : s.Inv) : s.finish.Inv := by
  obtain ⟨hcfg, hmem, hlen, hent, hpc, hi, hkw, hout⟩ := h
  have hcontin (hne : s.fault ≠ none) : s.finish.contin = false := by
    rw [State.finish_contin, Option.isNone_eq_false_iff.mpr (Option.isSome_iff_ne_none.mpr hne)]
    rfl
  exact ⟨hcfg, hmem, hlen, hent, hpc, hi, hkw, fun hne => ⟨hcontin hne, (hout hne).2⟩⟩

/-! ## Operations on the other fields -/

theorem State.Inv.setV (h : s.Inv) (r : Nibble) (b : Byte) : (s.setV r b).Inv := h

theorem State.Inv.setFlag (h : s.Inv) (b : Byte) : (s.setFlag b).Inv := h

theorem State.Inv.setDt (h : s.Inv) (b : Byte) : (s.setDt b).Inv := h

theorem State.Inv.setSt (h : s.Inv) (b : Byte) : (s.setSt b).Inv := h

theorem State.Inv.setFb (h : s.Inv) (f : Vector Row 32) : (s.setFb f).Inv := h

theorem State.Inv.setStop (h : s.Inv) : s.setStop.Inv := h

theorem State.Inv.writeResultFlag (h : s.Inv) (x : Nibble) (r f : Byte) : (s.writeResultFlag x r f).Inv := by
  rw [State.writeResultFlag_eq]
  exact h

/-! ## Shared operations of several parts -/

theorem State.Inv.strobe (h : s.Inv) (hf : s.fault = none) : s.strobe.Inv := h.withOutputs hf s.kwPending s.contin true

theorem State.Inv.enterKeyWait (h : s.Inv) (hf : s.fault = none) (x : Nibble) : (s.enterKeyWait x).Inv :=
  h.withOutputs hf true s.contin s.drawStrobe

theorem State.Inv.begin (h : s.Inv) (hf : s.fault = none) (inp : StepInput) : (s.begin inp).Inv :=
  h.withOutputs hf s.kwPending s.contin false

theorem State.Inv.keyWaitStep (h : s.Inv) (hf : s.fault = none) : s.keyWaitStep.Inv := by
  rw [State.keyWaitStep_eq]
  exact h.withOutputs hf s.keyWaitStep.kwPending true s.drawStrobe

theorem State.Inv.advance (h : s.Inv) (hpc : s.pc.toNat < 4095) : s.advance.Inv :=
  h.setPc (Nat.le_trans (State.advance_pc_le hpc) (by decide))

theorem State.Inv.skipIf (h : s.Inv) (hpc : s.pc.toNat ≤ 4096) (b : Bool) : (s.skipIf b).Inv := by
  have hle := Config.pcValue_le s.cfg (s.pc.toNat + 2)
  cases b with
  | false => exact h
  | true => exact h.setPc (Nat.le_trans hle (by omega))

theorem State.Inv.pushAndJump (h : s.Inv) (hk : s.kwPending = false) {ret target : Word} (hr : ret.toNat ≤ 4096)
    (ht : target.toNat ≤ 4350) : (s.pushAndJump ret target).Inv := by
  by_cases hroom : s.sp < s.cfg.stackDepth
  · obtain ⟨hcfg, hmem, -, hent, -, hi, hkw, hout⟩ := h
    have hlen : (s.stack ++ [ret]).length ≤ s.cfg.stackDepth := by simpa [State.sp] using hroom
    have hsaved : (s.stack ++ [ret]).all (fun w => decide (w.toNat ≤ 4096)) = true := by
      rw [List.all_append, hent]
      simpa using hr
    rw [State.pushAndJump_of_lt hroom]
    exact ⟨hcfg, hmem, hlen, hsaved, ht, hi, hkw, hout⟩
  · rw [State.pushAndJump_of_full (Nat.le_of_not_lt hroom)]
    exact h.raise hk _

/-- The entry that a return pops is a saved `PC`, so it is a `PC` of a run again (10_state R25). -/
theorem State.Inv.popAndJump (h : s.Inv) (hk : s.kwPending = false) : s.popAndJump.Inv := by
  rcases s.stack.eq_nil_or_concat' with hnil | ⟨rest, w, hstack⟩
  · rw [State.popAndJump_of_empty hnil]
    exact h.raise hk _
  · obtain ⟨hcfg, hmem, hlen, hent, -, hi, hkw, hout⟩ := h
    have hrest : rest.length ≤ s.cfg.stackDepth := Nat.le_trans (by simp [hstack]) hlen
    rw [hstack, List.all_append, Bool.and_eq_true] at hent
    have hw : w.toNat ≤ 4096 := by simpa using hent.2
    have hpc : w.toNat ≤ 4350 := Nat.le_trans hw (by decide)
    rw [State.popAndJump_of_append hstack]
    exact ⟨hcfg, hmem, hrest, hent.1, hpc, hi, hkw, hout⟩

theorem State.Inv.storeBytes (h : s.Inv) (hk : s.kwPending = false) (bs : List Byte) (a : Nat) :
    (State.storeBytes bs a s).Inv := by
  have hstored : { s with mem := (State.storeBytes bs a s).mem }.Inv := by
    obtain ⟨hcfg, hmem, hrest⟩ := h
    exact ⟨hcfg, State.storeBytes_wf bs a s hmem, hrest⟩
  rw [State.storeBytes_eq]
  split
  · exact hstored
  · exact hstored.raise hk _

theorem State.Inv.loadRegs (h : s.Inv) (hk : s.kwPending = false) (k r a : Nat) : (State.loadRegs k r a s).Inv := by
  have hloaded : { s with v := (State.loadRegs k r a s).v }.Inv := h
  rw [State.loadRegs_eq]
  split
  · exact hloaded
  · exact hloaded.raise hk _

theorem State.Inv.undefinedEF (h : s.Inv) (hk : s.kwPending = false) : s.undefinedEF.Inv := by
  unfold State.undefinedEF
  split
  · exact h.raise hk _
  · exact h

end

/-! ## Instructions -/

/-- Every next state that the result answers satisfies `P`. -/
def MeetsOnNext (P : State → Prop) (r : Result) : Prop := ∀ t, r = .next t → P t

theorem meetsOnNext_next {P : State → Prop} {t : State} (h : P t) : MeetsOnNext P (.next t) := by
  intro u hu
  injection hu with hu
  exact hu ▸ h

section
variable {s : State} (hs : s.Inv) (hf : s.fault = none) (hk : s.kwPending = false) (hpc : s.pc.toNat ≤ 4096)
include hs

theorem execJp_keeps_inv (nnn : Addr12) : MeetsOnNext State.Inv (execJp nnn s) := by
  have hjump : (s.setPc (zextAddr nnn)).Inv := hs.setPc (by have := zextAddr_lt nnn; omega)
  refine meetsOnNext_next ?_
  split
  · exact hjump.setStop
  · exact hjump

theorem execSubn_keeps_inv (x y : Nibble) : MeetsOnNext State.Inv (execSubn x y s) := by
  unfold execSubn
  split
  · exact meetsOnNext_next (hs.setV _ _)
  · exact meetsOnNext_next (hs.writeResultFlag _ _ _)

include hk hpc

theorem execSkp_keeps_inv (x : Nibble) : MeetsOnNext State.Inv (execSkp x s) := by
  unfold execSkp
  split
  · exact meetsOnNext_next (hs.raise hk _)
  · exact meetsOnNext_next (hs.skipIf hpc _)

theorem execSknp_keeps_inv (x : Nibble) : MeetsOnNext State.Inv (execSknp x s) := by
  unfold execSknp
  split
  · exact meetsOnNext_next (hs.raise hk _)
  · exact meetsOnNext_next (hs.skipIf hpc _)

include hf

/-- Every instruction keeps the invariant from the state in which a step executes it: not faulted, not in key-wait, `PC` at
most 4096 after the fetch. -/
theorem exec_keeps_inv (i : Instr) : MeetsOnNext State.Inv (exec i s) := by
  have haddr (nnn : Addr12) : (zextAddr nnn).toNat ≤ 4350 := by have := zextAddr_lt nnn; omega
  cases i with
  | cls => exact meetsOnNext_next (hs.setFb _)
  | ret => exact meetsOnNext_next (hs.popAndJump hk)
  | jp0 nnn => exact meetsOnNext_next (hs.setPc (haddr nnn))
  | jp nnn => exact execJp_keeps_inv hs nnn
  | call nnn => exact meetsOnNext_next (hs.pushAndJump hk hpc (haddr nnn))
  | seImm | sneImm | seReg | sneReg => exact meetsOnNext_next (hs.skipIf hpc _)
  | ldImm | addImm | ldReg | or | and | xor | rnd | ldVxDt => exact meetsOnNext_next (hs.setV _ _)
  | addReg | sub => exact meetsOnNext_next (hs.writeResultFlag _ _ _)
  | subn x y => exact execSubn_keeps_inv hs x y
  | shr | shl => exact meetsOnNext_next ((hs.setFlag _).setV _ _)
  | ldI nnn => exact meetsOnNext_next (hs.setI (hs.lt_two_pow_iWidth (zextAddr_lt nnn)))
  | jpV0 nnn => exact meetsOnNext_next (hs.setPc (s.offsetTarget_le nnn))
  | drw => exact meetsOnNext_next (((hs.setFb _).setFlag _).strobe hf)
  | skp x => exact execSkp_keeps_inv hs hk hpc x
  | sknp x => exact execSknp_keeps_inv hs hk hpc x
  | ldVxK => exact meetsOnNext_next (hs.enterKeyWait hf _)
  | ldDtVx => exact meetsOnNext_next (hs.setDt _)
  | ldStVx => exact meetsOnNext_next (hs.setSt _)
  | addI x => exact meetsOnNext_next (hs.setI (s.indexSum_lt x))
  | ldF x => exact meetsOnNext_next (hs.setI (hs.lt_two_pow_iWidth (s.glyphAddr_lt x)))
  | ldB | ldMemVx => exact meetsOnNext_next (hs.storeBytes hk _ _)
  | ldVxMem => exact meetsOnNext_next (hs.loadRegs hk _ _ _)
  | reserved8 => exact meetsOnNext_next (hs.raise hk _)
  | reservedE | reservedF => exact meetsOnNext_next (hs.undefinedEF hk)

end

/-! ## Steps and host events -/

/-- The part of a step after the tick and the poll keeps the invariant of a machine that is not faulted. -/
theorem stepLive_keeps_inv {s : State} (hs : s.Inv) (hf : s.fault = none) : MeetsOnNext State.Inv (stepLive s) := by
  unfold stepLive
  by_cases hk : s.kwPending = true
  · rw [if_pos hk]
    exact meetsOnNext_next (hs.keyWaitStep hf)
  rw [if_neg hk]
  have hkf : s.kwPending = false := Bool.eq_false_iff.mpr hk
  by_cases hpc : s.pc.toNat < 4095
  · rw [State.fetch_of_lt hpc]
    intro t ht
    obtain ⟨u, hu, rfl⟩ := finishResult_next ht
    have hui : u.Inv := exec_keeps_inv (hs.advance hpc) hf hkf (State.advance_pc_le hpc) _ u hu
    exact hui.finish
  · rw [State.fetch_of_ge (Nat.le_of_not_lt hpc)]
    exact meetsOnNext_next (hs.raise hkf _)

/-- A step keeps the invariant whatever the ports show. -/
theorem stepWith_keeps_inv {s : State} (hs : s.Inv) (inp : StepInput) : MeetsOnNext State.Inv (stepWith inp s) := by
  unfold stepWith
  cases hf : s.fault with
  | some _ => exact meetsOnNext_next hs.frozen
  | none => exact stepLive_keeps_inv (hs.begin hf inp) hf

/-- `Load` needs of the state before it only that its parameters are valid (70_reset_and_hazards R230). -/
theorem load_meets_inv {s : State} (hc : s.cfg.Valid) (image : List Byte) : MeetsOnNext State.Inv (s.load image) := by
  unfold State.load
  split
  case isTrue hlen =>
    have hwf : Memory.wf s.cfg (Memory.storeImage s.cfg image Config.progBase []) = true :=
      Memory.wf_storeImage s.cfg image _ rfl (by change image.length ≤ 3584 at hlen; change 512 + _ ≤ 4096; omega)
    have hpc : (512#16).toNat ≤ 4350 := by decide
    exact meetsOnNext_next
      ⟨hc, hwf, Nat.zero_le _, rfl, hpc, Nat.two_pow_pos _, fun _ => rfl, fun hne => absurd rfl hne⟩
  case isFalse => exact fun t ht => nomatch ht

/-- Settles O20: `Load` meets the invariant, a step keeps it, and `RequestStop` writes a field that it does not constrain. -/
theorem everyHostEventKeepsTheInvariant : Obligations.EveryHostEventKeepsTheInvariant := by
  intro e s t hs h
  cases e with
  | load image => exact load_meets_inv hs.valid image t h
  | step inp => exact stepWith_keeps_inv hs inp t h
  | requestStop => exact meetsOnNext_next (t := s.requestStop) hs.setStop t h

end Sys2Proof.Machine

/-! # The width of `PC` (00_scope R7): each operation commutes with a change of the parameter -/

namespace Sys2Proof.Machine

/-- The state under another `PC_WIDTH`. -/
def State.withPcWidth (w : Nat) (s : State) : State := { s with cfg := { s.cfg with pcWidth := w } }

/-- The result with its next state under another `PC_WIDTH`. -/
def resultWithPcWidth (w : Nat) : Result → Result
  | .next t => .next (t.withPcWidth w)
  | .fault r => .fault r
  | .refused r => .refused r

/-- A sum that 13 bits hold is the same `PC` at every width that holds it (92_eei_decisions D3). -/
theorem Config.pcValue_withPcWidth {c : Config} {w n : Nat} (hc : 13 ≤ c.pcWidth) (hw : 13 ≤ w) (hn : n < 8192) :
    Config.pcValue { c with pcWidth := w } n = Config.pcValue c n :=
  BitVec.eq_of_toNat_eq ((Config.pcValue_toNat hw hn).trans (Config.pcValue_toNat hc hn).symm)

section
variable {s : State} {w : Nat}

@[simp] theorem State.withPcWidth_kwPending : (s.withPcWidth w).kwPending = s.kwPending := rfl
@[simp] theorem State.withPcWidth_fault : (s.withPcWidth w).fault = s.fault := rfl
@[simp] theorem State.withPcWidth_keys : (s.withPcWidth w).keys = s.keys := rfl
@[simp] theorem State.withPcWidth_flagOrder : (s.withPcWidth w).cfg.flagOrder = s.cfg.flagOrder := rfl
@[simp] theorem State.withPcWidth_subnVf : (s.withPcWidth w).cfg.subnVf = s.cfg.subnVf := rfl
@[simp] theorem State.withPcWidth_reservedEf : (s.withPcWidth w).cfg.reservedEf = s.cfg.reservedEf := rfl
@[simp] theorem State.withPcWidth_fetchAddr : (s.withPcWidth w).fetchAddr = s.fetchAddr := rfl
@[simp] theorem State.withPcWidth_keyIndex (x : Nibble) : (s.withPcWidth w).keyIndex x = s.keyIndex x := rfl
@[simp] theorem State.withPcWidth_fetch : (s.withPcWidth w).fetch = s.fetch := rfl

theorem State.withPcWidth_pcPlus2 (hc : 13 ≤ s.cfg.pcWidth) (hw : 13 ≤ w) (hpc : s.pc.toNat ≤ 4350) :
    (s.withPcWidth w).pcPlus2 = s.pcPlus2 :=
  Config.pcValue_withPcWidth (n := s.pc.toNat + 2) hc hw (by omega)

theorem State.withPcWidth_offsetTarget (hc : 13 ≤ s.cfg.pcWidth) (hw : 13 ≤ w) (nnn : Addr12) :
    (s.withPcWidth w).offsetTarget nnn = s.offsetTarget nnn :=
  Config.pcValue_withPcWidth hc hw (by have := (s.getV 0#4).isLt; have := nnn.isLt; omega)

theorem State.withPcWidth_advance (hc : 13 ≤ s.cfg.pcWidth) (hw : 13 ≤ w) (hpc : s.pc.toNat ≤ 4350) :
    (s.withPcWidth w).advance = s.advance.withPcWidth w := by
  rw [State.advance, State.withPcWidth_pcPlus2 hc hw hpc]
  rfl

theorem State.withPcWidth_skipIf (hc : 13 ≤ s.cfg.pcWidth) (hw : 13 ≤ w) (hpc : s.pc.toNat ≤ 4350) (b : Bool) :
    (s.withPcWidth w).skipIf b = (s.skipIf b).withPcWidth w := by
  rw [State.skipIf_eq, State.skipIf_eq, State.withPcWidth_pcPlus2 hc hw hpc]
  rfl

theorem State.withPcWidth_pushAndJump (w : Nat) (s : State) (ret target : Word) :
    (s.withPcWidth w).pushAndJump ret target = (s.pushAndJump ret target).withPcWidth w := by
  by_cases h : s.sp < s.cfg.stackDepth
  · rw [State.pushAndJump_of_lt h, State.pushAndJump_of_lt (s := s.withPcWidth w) h]
    rfl
  · have hfull := Nat.le_of_not_lt h
    rw [State.pushAndJump_of_full hfull, State.pushAndJump_of_full (s := s.withPcWidth w) hfull]
    rfl

theorem State.withPcWidth_popAndJump (w : Nat) (s : State) :
    (s.withPcWidth w).popAndJump = s.popAndJump.withPcWidth w := by
  rcases s.stack.eq_nil_or_concat' with h | ⟨rest, _, h⟩
  · rw [State.popAndJump_of_empty h, State.popAndJump_of_empty (s := s.withPcWidth w) h]
    rfl
  · rw [State.popAndJump_of_append h, State.popAndJump_of_append (s := s.withPcWidth w) h]
    rfl

theorem State.withPcWidth_storeBytes (w : Nat) (bs : List Byte) (a : Nat) (s : State) :
    State.storeBytes bs a (s.withPcWidth w) = (State.storeBytes bs a s).withPcWidth w := by
  induction bs generalizing a s with
  | nil => rfl
  | cons b bs ih =>
    rw [State.storeBytes, State.storeBytes]
    split
    · exact ih (a + 1) (s.writeMem a b)
    · rfl

theorem State.withPcWidth_loadRegs (w : Nat) (k r a : Nat) (s : State) :
    State.loadRegs k r a (s.withPcWidth w) = (State.loadRegs k r a s).withPcWidth w := by
  induction k generalizing r a s with
  | zero => rfl
  | succ k ih =>
    rw [State.loadRegs, State.loadRegs]
    split
    · exact ih (r + 1) (a + 1) (s.setV (BitVec.ofNat 4 r) (s.readMem a))
    · rfl

/-- The sprite rows read the font of the configuration and nothing else of it. -/
theorem drawRows_withPcWidth (c : Config) (w : Nat) (m : Memory) (base px py n : Nat) (acc : Vector Row 32 × Bool) :
    drawRows { c with pcWidth := w } m base px py n acc = drawRows c m base px py n acc := by
  induction n with
  | zero => rfl
  | succ n ih =>
    rw [drawRows, drawRows, ih]
    rfl

theorem State.withPcWidth_drawn (w : Nat) (s : State) (x y n : Nibble) : (s.withPcWidth w).drawn x y n = s.drawn x y n :=
  drawRows_withPcWidth s.cfg w s.mem _ _ _ _ _

theorem State.withPcWidth_writeResultFlag (w : Nat) (s : State) (x : Nibble) (r f : Byte) :
    (s.withPcWidth w).writeResultFlag x r f = (s.writeResultFlag x r f).withPcWidth w := by
  rw [State.writeResultFlag, State.writeResultFlag, State.withPcWidth_flagOrder]
  cases s.cfg.flagOrder <;> rfl

theorem State.withPcWidth_undefinedEF (w : Nat) (s : State) :
    (s.withPcWidth w).undefinedEF = s.undefinedEF.withPcWidth w := by
  rw [State.undefinedEF, State.undefinedEF, State.withPcWidth_reservedEf]
  cases s.cfg.reservedEf <;> rfl

theorem State.withPcWidth_keyWaitStep (w : Nat) (s : State) :
    (s.withPcWidth w).keyWaitStep = s.keyWaitStep.withPcWidth w := by
  rw [State.keyWaitStep, State.keyWaitStep, State.withPcWidth_keys]
  split <;> rfl

/-! ## Instructions -/

theorem execJp_withPcWidth (w : Nat) (s : State) (nnn : Addr12) :
    execJp nnn (s.withPcWidth w) = resultWithPcWidth w (execJp nnn s) := by
  rw [execJp, execJp, State.withPcWidth_fetchAddr]
  split <;> rfl

theorem execSubn_withPcWidth (w : Nat) (s : State) (x y : Nibble) :
    execSubn x y (s.withPcWidth w) = resultWithPcWidth w (execSubn x y s) := by
  rw [execSubn, execSubn, State.withPcWidth_subnVf]
  cases s.cfg.subnVf with
  | unchanged => rfl
  | notBorrow => exact congrArg _ (State.withPcWidth_writeResultFlag w s _ _ _)

theorem execDrw_withPcWidth (w : Nat) (s : State) (x y n : Nibble) :
    execDrw x y n (s.withPcWidth w) = resultWithPcWidth w (execDrw x y n s) := by
  rw [execDrw, State.withPcWidth_drawn]
  rfl

theorem execJpV0_withPcWidth (hc : 13 ≤ s.cfg.pcWidth) (hw : 13 ≤ w) (nnn : Addr12) :
    execJpV0 nnn (s.withPcWidth w) = resultWithPcWidth w (execJpV0 nnn s) := by
  rw [execJpV0, State.withPcWidth_offsetTarget hc hw]
  rfl

section
variable (hc : 13 ≤ s.cfg.pcWidth) (hw : 13 ≤ w) (hpc : s.pc.toNat ≤ 4350)
include hc hw hpc

theorem execSkp_withPcWidth (x : Nibble) : execSkp x (s.withPcWidth w) = resultWithPcWidth w (execSkp x s) := by
  rw [execSkp, execSkp, State.withPcWidth_keyIndex]
  cases s.keyIndex x with
  | none => rfl
  | some _ => exact congrArg _ (State.withPcWidth_skipIf hc hw hpc _)

theorem execSknp_withPcWidth (x : Nibble) : execSknp x (s.withPcWidth w) = resultWithPcWidth w (execSknp x s) := by
  rw [execSknp, execSknp, State.withPcWidth_keyIndex]
  cases s.keyIndex x with
  | none => rfl
  | some _ => exact congrArg _ (State.withPcWidth_skipIf hc hw hpc _)

/-- An instruction does the same under every width that holds the `PC` of a run: the skips and `Bnnn` are the only ones that
read the parameter. -/
theorem exec_withPcWidth (i : Instr) : exec i (s.withPcWidth w) = resultWithPcWidth w (exec i s) := by
  cases i with
  | cls | jp0 | ldImm | addImm | ldReg | or | and | xor | shr | shl | ldI | rnd | ldVxDt | ldVxK | ldDtVx | ldStVx | addI
  | ldF | reserved8 => rfl
  | ret => exact congrArg _ (State.withPcWidth_popAndJump w s)
  | jp nnn => exact execJp_withPcWidth w s nnn
  | call nnn => exact congrArg _ (State.withPcWidth_pushAndJump w s _ _)
  | seImm | sneImm | seReg | sneReg => exact congrArg _ (State.withPcWidth_skipIf hc hw hpc _)
  | addReg | sub => exact congrArg _ (State.withPcWidth_writeResultFlag w s _ _ _)
  | subn x y => exact execSubn_withPcWidth w s x y
  | jpV0 nnn => exact execJpV0_withPcWidth hc hw nnn
  | drw x y n => exact execDrw_withPcWidth w s x y n
  | skp x => exact execSkp_withPcWidth hc hw hpc x
  | sknp x => exact execSknp_withPcWidth hc hw hpc x
  | ldB | ldMemVx => exact congrArg _ (State.withPcWidth_storeBytes w _ _ s)
  | ldVxMem => exact congrArg _ (State.withPcWidth_loadRegs w _ _ _ s)
  | reservedE | reservedF => exact congrArg _ (State.withPcWidth_undefinedEF w s)

end

/-! ## Steps -/

theorem finishResult_withPcWidth (w : Nat) (r : Result) :
    finishResult (resultWithPcWidth w r) = resultWithPcWidth w (finishResult r) := by
  cases r <;> rfl

theorem stepLive_withPcWidth (hc : 13 ≤ s.cfg.pcWidth) (hw : 13 ≤ w) :
    stepLive (s.withPcWidth w) = resultWithPcWidth w (stepLive s) := by
  rw [stepLive, stepLive, State.withPcWidth_kwPending, State.withPcWidth_fetch]
  by_cases hk : s.kwPending = true
  · rw [if_pos hk, if_pos hk]
    exact congrArg _ (State.withPcWidth_keyWaitStep w s)
  rw [if_neg hk, if_neg hk]
  by_cases hpc : s.pc.toNat < 4095
  · have hnext : s.advance.pc.toNat ≤ 4350 := Nat.le_trans (State.advance_pc_le hpc) (by decide)
    have hadv := State.withPcWidth_advance hc hw (by omega : s.pc.toNat ≤ 4350)
    simp only [State.fetch_of_lt hpc, hadv]
    rw [exec_withPcWidth (s := s.advance) hc hw hnext, finishResult_withPcWidth]
  · rw [State.fetch_of_ge (Nat.le_of_not_lt hpc)]
    rfl

/-- No bound on `PC` is needed: an instruction executes only after a fetch below 4095. -/
theorem step_withPcWidth (hc : 13 ≤ s.cfg.pcWidth) (hw : 13 ≤ w) :
    step (s.withPcWidth w) = resultWithPcWidth w (step s) := by
  change stepWith s.nextInput (s.takeInput.withPcWidth w) = resultWithPcWidth w (stepWith s.nextInput s.takeInput)
  rw [stepWith, stepWith, State.withPcWidth_fault]
  cases s.takeInput.fault with
  | some _ => rfl
  | none => exact stepLive_withPcWidth (s := s.takeInput.begin s.nextInput) hc hw

/-- Settles O18, from `step_withPcWidth`: of the invariant only the valid `PC_WIDTH` is used. -/
theorem pcWidthsThatHoldEveryPcRunAlike : Obligations.PcWidthsThatHoldEveryPcRunAlike := by
  intro s t w hs hw h
  obtain ⟨hc, -, -⟩ := hs.valid
  change step (s.withPcWidth w) = resultWithPcWidth w (.next t)
  rw [step_withPcWidth hc hw, h]

end

end Sys2Proof.Machine

/-! # The invariant of every step and of reset (10_state R20, R36) -/

namespace Sys2Proof.Machine

/-- Settles O19: the invariant constrains neither the samples nor their counter, so it holds of the state whose sample is
taken, and `stepWith_keeps_inv` covers the rest of the step. -/
theorem everyStepKeepsTheInvariant : Obligations.EveryStepKeepsTheInvariant := by
  intro s t hs h
  have htaken : s.takeInput.Inv := hs
  exact stepWith_keeps_inv htaken s.nextInput t h

/-- Settles O21: the reset state is what `Load` of the empty image leaves under the default parameters, which are valid. -/
theorem resetMeetsTheInvariant : Obligations.ResetMeetsTheInvariant := by
  have hvalid : State.reset.cfg.Valid := by decide
  have hload : State.reset.load [] = .next State.reset := rfl
  exact load_meets_inv hvalid [] State.reset hload

end Sys2Proof.Machine

/-! # Canonical memories (20_memory R59): the bytes read determine the list -/

namespace Sys2Proof.Machine

theorem Memory.wfFrom_cons (c : Config) (lo k : Nat) (b : Byte) (m : Memory) :
    Memory.wfFrom c lo ((k, b) :: m) = true ↔
      lo ≤ k ∧ k < Config.memSize ∧ b ≠ initByte c k ∧ Memory.wfFrom c (k + 1) m = true := by
  simp [Memory.wfFrom, and_assoc]

theorem Memory.lookup_cons_self (k : Nat) (b : Byte) (m : Memory) : Memory.lookup ((k, b) :: m) k = some b := if_pos rfl

theorem Memory.lookup_cons_of_ne {k a : Nat} (h : k ≠ a) (b : Byte) (m : Memory) :
    Memory.lookup ((k, b) :: m) a = Memory.lookup m a := if_neg h

/-- What canonical memory lists lies in its range and differs from what an unlisted address reads as. -/
theorem Memory.wfFrom_lookup {c : Config} {lo a : Nat} {b : Byte} {m : Memory} (hm : Memory.wfFrom c lo m = true)
    (h : Memory.lookup m a = some b) : lo ≤ a ∧ a < Config.memSize ∧ b ≠ initByte c a := by
  induction m generalizing lo with
  | nil => cases h
  | cons e m ih =>
    obtain ⟨k, d⟩ := e
    obtain ⟨hlo, hk, hd, hrest⟩ := (Memory.wfFrom_cons c lo k d m).mp hm
    by_cases hka : k = a
    · subst hka
      rw [Memory.lookup_cons_self] at h
      injection h with h
      exact ⟨hlo, hk, h ▸ hd⟩
    · rw [Memory.lookup_cons_of_ne hka] at h
      obtain ⟨hle, hin⟩ := ih hrest h
      exact ⟨by omega, hin⟩

/-- Canonical memory lists nothing below its range. -/
theorem Memory.lookup_eq_none_of_lt {c : Config} {lo a : Nat} {m : Memory} (hm : Memory.wfFrom c lo m = true)
    (h : a < lo) : Memory.lookup m a = none :=
  Option.eq_none_iff_forall_not_mem.mpr fun _ hb => absurd (Memory.wfFrom_lookup hm hb).1 (Nat.not_le_of_lt h)

/-- The first address that canonical memory lists is the least. -/
theorem Memory.head_le_of_lookup {c : Config} {lo k a : Nat} {b d : Byte} {m : Memory}
    (hm : Memory.wfFrom c lo ((k, b) :: m) = true) (h : Memory.lookup ((k, b) :: m) a = some d) : k ≤ a := by
  obtain ⟨-, hin⟩ := (Memory.wfFrom_cons c lo k b m).mp hm
  exact (Memory.wfFrom_lookup ((Memory.wfFrom_cons c k k b m).mpr ⟨Nat.le_refl k, hin⟩) h).1

/-- A listed byte of a canonical memory is the one listed by every canonical memory that reads alike. -/
theorem Memory.lookup_of_reads_alike {c : Config} {m m' : Memory} (hm : Memory.wf c m = true)
    (hread : ∀ a < 4096, Memory.read c m a = Memory.read c m' a) {a : Nat} {b : Byte}
    (h : Memory.lookup m a = some b) : Memory.lookup m' a = some b := by
  obtain ⟨-, hlt, hne⟩ := Memory.wfFrom_lookup hm h
  have hb : b = (Memory.lookup m' a).getD (initByte c a) := by simpa [Memory.read, h] using hread a hlt
  cases h' : Memory.lookup m' a with
  | none => rw [h'] at hb; exact absurd hb hne
  | some d => rw [h'] at hb; exact congrArg some hb.symm

/-- Canonical memories that list the same bytes are equal: the first address of each is listed by the other, so it is the
same, and the rest list nothing there. -/
theorem Memory.eq_of_lookup_eq {c : Config} {lo : Nat} {m m' : Memory} (hm : Memory.wfFrom c lo m = true)
    (hm' : Memory.wfFrom c lo m' = true) (h : ∀ a, Memory.lookup m a = Memory.lookup m' a) : m = m' := by
  induction m generalizing lo m' with
  | nil =>
    cases m' with
    | nil => rfl
    | cons e m' =>
      have := h e.1
      rw [Memory.lookup_cons_self] at this
      cases this
  | cons e m ih =>
    obtain ⟨k, b⟩ := e
    have hk := h k
    rw [Memory.lookup_cons_self] at hk
    cases m' with
    | nil => cases hk
    | cons e' m' =>
      obtain ⟨k', b'⟩ := e'
      have hk' := (h k').trans (Memory.lookup_cons_self k' b' m')
      have hle : k ≤ k' := Memory.head_le_of_lookup hm hk'
      have hge : k' ≤ k := Memory.head_le_of_lookup hm' hk.symm
      obtain rfl : k = k' := Nat.le_antisymm hle hge
      rw [Memory.lookup_cons_self] at hk
      obtain rfl : b = b' := Option.some.inj hk
      obtain ⟨-, -, -, hrest⟩ := (Memory.wfFrom_cons c lo k b m).mp hm
      obtain ⟨-, -, -, hrest'⟩ := (Memory.wfFrom_cons c lo k b m').mp hm'
      have hnone : Memory.lookup m k = none := Memory.lookup_eq_none_of_lt hrest (Nat.lt_succ_self k)
      have hnone' : Memory.lookup m' k = none := Memory.lookup_eq_none_of_lt hrest' (Nat.lt_succ_self k)
      have htail : ∀ a, Memory.lookup m a = Memory.lookup m' a := by
        intro a
        by_cases ha : k = a
        · rw [← ha, hnone, hnone']
        · have := h a
          rwa [Memory.lookup_cons_of_ne ha, Memory.lookup_cons_of_ne ha] at this
      rw [ih hrest hrest' htail]

/-- Settles O22: by `lookup_of_reads_alike` in both directions the two list the same bytes. -/
theorem canonicalMemoriesThatReadAlikeAreEqual : Obligations.CanonicalMemoriesThatReadAlikeAreEqual := by
  intro c m m' hm hm' hread
  have hread' : ∀ a < 4096, Memory.read c m' a = Memory.read c m a := fun a ha => (hread a ha).symm
  have hlookup (a : Nat) : Memory.lookup m a = Memory.lookup m' a :=
    Option.ext fun _ => ⟨Memory.lookup_of_reads_alike hm hread, Memory.lookup_of_reads_alike hm' hread'⟩
  exact Memory.eq_of_lookup_eq hm hm' hlookup

end Sys2Proof.Machine

/-! # What an instruction may write (10_state R35, R37): each instruction keeps every element but those that its row names -/

namespace Sys2Proof.Machine

/-- `s` with the elements that the row of `i` names as written (10_state R37) taken from `t`: the registers, `I`, the stack,
the timers, the key-wait pair, `STOP`, `MEM` and `FB`. -/
def State.withWritten (s : State) (i : Instr) (t : State) : State :=
  match i with
  | .ldImm _ _ | .addImm _ _ | .ldReg _ _ | .or _ _ | .and _ _ | .xor _ _ | .addReg _ _ | .sub _ _ | .shr _ _ | .subn _ _
  | .shl _ _ | .rnd _ _ | .ldVxDt _ | .ldVxMem _ => { s with v := t.v }
  | .ldI _ | .addI _ | .ldF _ => { s with i := t.i }
  | .ret | .call _ => { s with stack := t.stack }
  | .jp _ => { s with stop := t.stop }
  | .cls => { s with fb := t.fb }
  | .drw _ _ _ => { s with v := t.v, fb := t.fb }
  | .ldB _ | .ldMemVx _ => { s with mem := t.mem }
  | .ldDtVx _ => { s with dt := t.dt }
  | .ldStVx _ => { s with st := t.st }
  | .ldVxK _ => { s with kwPending := t.kwPending, kwTarget := t.kwTarget }
  | .jp0 _ | .jpV0 _ | .seImm _ _ | .sneImm _ _ | .seReg _ _ _ | .sneReg _ _ _ | .skp _ | .sknp _ | .reserved8 _ _ _
  | .reservedE _ _ | .reservedF _ _ => s

/-- `t` is `s` but for `PC`, a fault and the two outputs, which the rows of the tables do not divide among instructions. -/
def State.KeepsElements (s t : State) : Prop :=
  t = { s with pc := t.pc, fault := t.fault, contin := t.contin, drawStrobe := t.drawStrobe }

section
variable {s t : State} (h : s.KeepsElements t)
include h

theorem State.KeepsElements.cfg_eq : t.cfg = s.cfg := (congrArg State.cfg h :)
theorem State.KeepsElements.v_eq : t.v = s.v := (congrArg State.v h :)
theorem State.KeepsElements.i_eq : t.i = s.i := (congrArg State.i h :)
theorem State.KeepsElements.stack_eq : t.stack = s.stack := (congrArg State.stack h :)
theorem State.KeepsElements.dt_eq : t.dt = s.dt := (congrArg State.dt h :)
theorem State.KeepsElements.st_eq : t.st = s.st := (congrArg State.st h :)
theorem State.KeepsElements.keys_eq : t.keys = s.keys := (congrArg State.keys h :)
theorem State.KeepsElements.kwPending_eq : t.kwPending = s.kwPending := (congrArg State.kwPending h :)
theorem State.KeepsElements.kwTarget_eq : t.kwTarget = s.kwTarget := (congrArg State.kwTarget h :)
theorem State.KeepsElements.stop_eq : t.stop = s.stop := (congrArg State.stop h :)
theorem State.KeepsElements.mem_eq : t.mem = s.mem := (congrArg State.mem h :)
theorem State.KeepsElements.fb_eq : t.fb = s.fb := (congrArg State.fb h :)
theorem State.KeepsElements.rndIn_eq : t.rndIn = s.rndIn := (congrArg State.rndIn h :)
theorem State.KeepsElements.inputs_eq : t.inputs = s.inputs := (congrArg State.inputs h :)
theorem State.KeepsElements.inputCount_eq : t.inputCount = s.inputCount := (congrArg State.inputCount h :)

end

/-! ## Shared operations -/

section
variable (s : State)

theorem State.raise_keeps (f : FaultCode) : s.KeepsElements (s.raise f) := rfl

theorem State.skipIf_keeps (b : Bool) : s.KeepsElements (s.skipIf b) := by
  rw [State.skipIf_eq]
  rfl

theorem State.undefinedEF_keeps : s.KeepsElements s.undefinedEF := by
  unfold State.undefinedEF
  split
  · exact s.raise_keeps _
  · rfl

theorem State.pushAndJump_keeps (ret target : Word) :
    { s with stack := (s.pushAndJump ret target).stack }.KeepsElements (s.pushAndJump ret target) := by
  unfold State.pushAndJump
  split <;> rfl

theorem State.popAndJump_keeps : { s with stack := s.popAndJump.stack }.KeepsElements s.popAndJump := by
  unfold State.popAndJump
  split <;> rfl

theorem State.storeBytes_keeps (bs : List Byte) (a : Nat) :
    { s with mem := (State.storeBytes bs a s).mem }.KeepsElements (State.storeBytes bs a s) := by
  rw [State.storeBytes_eq]
  split <;> rfl

theorem State.loadRegs_keeps (k r a : Nat) :
    { s with v := (State.loadRegs k r a s).v }.KeepsElements (State.loadRegs k r a s) := by
  rw [State.loadRegs_eq]
  split <;> rfl

theorem State.writeResultFlag_keeps (x : Nibble) (r f : Byte) :
    { s with v := (s.writeResultFlag x r f).v }.KeepsElements (s.writeResultFlag x r f) := by
  rw [State.writeResultFlag_eq]
  rfl

/-! ## Instructions -/

/-- The next state of `i`, if any, differs from `s` only where the row of `i` says so, and in `PC`, a fault and the
outputs. -/
def KeepsOthers (i : Instr) (s : State) : Prop := MeetsOnNext (fun t => (s.withWritten i t).KeepsElements t) (exec i s)

theorem jp_keeps_others (nnn : Addr12) : KeepsOthers (.jp nnn) s := by
  refine meetsOnNext_next ?_
  split <;> rfl

theorem subn_keeps_others (x y : Nibble) : KeepsOthers (.subn x y) s := by
  change MeetsOnNext _ (execSubn x y s)
  unfold execSubn
  split
  · exact meetsOnNext_next rfl
  · exact meetsOnNext_next (s.writeResultFlag_keeps _ _ _)

theorem skp_keeps_others (x : Nibble) : KeepsOthers (.skp x) s := by
  change MeetsOnNext _ (execSkp x s)
  unfold execSkp
  split
  · exact meetsOnNext_next (s.raise_keeps _)
  · exact meetsOnNext_next (s.skipIf_keeps _)

theorem sknp_keeps_others (x : Nibble) : KeepsOthers (.sknp x) s := by
  change MeetsOnNext _ (execSknp x s)
  unfold execSknp
  split
  · exact meetsOnNext_next (s.raise_keeps _)
  · exact meetsOnNext_next (s.skipIf_keeps _)

/-- Every instruction keeps what its row does not name (10_state R37). -/
theorem exec_keeps_others (i : Instr) : KeepsOthers i s := by
  cases i with
  | cls | jp0 | jpV0 | ldImm | addImm | ldReg | or | and | xor | shr | shl | rnd | ldVxDt | ldI | addI | ldF | drw | ldVxK
  | ldDtVx | ldStVx => exact meetsOnNext_next rfl
  | ret => exact meetsOnNext_next s.popAndJump_keeps
  | jp nnn => exact jp_keeps_others s nnn
  | call => exact meetsOnNext_next (s.pushAndJump_keeps _ _)
  | seImm | sneImm | seReg | sneReg => exact meetsOnNext_next (s.skipIf_keeps _)
  | addReg | sub => exact meetsOnNext_next (s.writeResultFlag_keeps _ _ _)
  | subn x y => exact subn_keeps_others s x y
  | skp x => exact skp_keeps_others s x
  | sknp x => exact sknp_keeps_others s x
  | ldB | ldMemVx => exact meetsOnNext_next (s.storeBytes_keeps _ _)
  | ldVxMem => exact meetsOnNext_next (s.loadRegs_keeps _ _ _)
  | reserved8 => exact meetsOnNext_next (s.raise_keeps _)
  | reservedE | reservedF => exact meetsOnNext_next s.undefinedEF_keeps

end

section
variable {i : Instr} {s t : State} (h : exec i s = .next t)
include h

/-- `exec_keeps_others`, of a state that `exec` answers. -/
theorem exec_next_keeps : (s.withWritten i t).KeepsElements t := exec_keeps_others s i t h

theorem exec_mem_changed (hne : t.mem ≠ s.mem) : ∃ x, i = .ldB x ∨ i = .ldMemVx x := by
  have hmem : t.mem = (s.withWritten i t).mem := (exec_next_keeps h).mem_eq
  cases i with
  | ldB x => exact ⟨x, Or.inl rfl⟩
  | ldMemVx x => exact ⟨x, Or.inr rfl⟩
  | _ => exact absurd hmem hne

theorem exec_fb_changed (hne : t.fb ≠ s.fb) : i = .cls ∨ ∃ x y n, i = .drw x y n := by
  have hfb : t.fb = (s.withWritten i t).fb := (exec_next_keeps h).fb_eq
  cases i with
  | cls => exact Or.inl rfl
  | drw x y n => exact Or.inr ⟨x, y, n, rfl⟩
  | _ => exact absurd hfb hne

theorem exec_stack_changed (hne : t.stack ≠ s.stack) : i = .ret ∨ ∃ nnn, i = .call nnn := by
  have hstack : t.stack = (s.withWritten i t).stack := (exec_next_keeps h).stack_eq
  cases i with
  | ret => exact Or.inl rfl
  | call nnn => exact Or.inr ⟨nnn, rfl⟩
  | _ => exact absurd hstack hne

theorem exec_i_changed (hne : t.i ≠ s.i) : (∃ nnn, i = .ldI nnn) ∨ ∃ x, i = .addI x ∨ i = .ldF x := by
  have hi : t.i = (s.withWritten i t).i := (exec_next_keeps h).i_eq
  cases i with
  | ldI nnn => exact Or.inl ⟨nnn, rfl⟩
  | addI x => exact Or.inr ⟨x, Or.inl rfl⟩
  | ldF x => exact Or.inr ⟨x, Or.inr rfl⟩
  | _ => exact absurd hi hne

theorem exec_dt_changed (hne : t.dt ≠ s.dt) : ∃ x, i = .ldDtVx x := by
  have hdt : t.dt = (s.withWritten i t).dt := (exec_next_keeps h).dt_eq
  cases i with
  | ldDtVx x => exact ⟨x, rfl⟩
  | _ => exact absurd hdt hne

theorem exec_st_changed (hne : t.st ≠ s.st) : ∃ x, i = .ldStVx x := by
  have hst : t.st = (s.withWritten i t).st := (exec_next_keeps h).st_eq
  cases i with
  | ldStVx x => exact ⟨x, rfl⟩
  | _ => exact absurd hst hne

theorem exec_keyWait_changed (hne : t.kwPending ≠ s.kwPending ∨ t.kwTarget ≠ s.kwTarget) : ∃ x, i = .ldVxK x := by
  have hpending : t.kwPending = (s.withWritten i t).kwPending := (exec_next_keeps h).kwPending_eq
  have htarget : t.kwTarget = (s.withWritten i t).kwTarget := (exec_next_keeps h).kwTarget_eq
  cases i with
  | ldVxK x => exact ⟨x, rfl⟩
  | _ => exact absurd hne (not_or.mpr ⟨not_not_intro hpending, not_not_intro htarget⟩)

theorem exec_stop_changed (hne : t.stop ≠ s.stop) : ∃ nnn, i = .jp nnn := by
  have hstop : t.stop = (s.withWritten i t).stop := (exec_next_keeps h).stop_eq
  cases i with
  | jp nnn => exact ⟨nnn, rfl⟩
  | _ => exact absurd hstop hne

/-- No row names the key snapshot, the parameters or the samples. -/
theorem exec_keeps_inputs :
    t.keys = s.keys ∧ t.cfg = s.cfg ∧ t.rndIn = s.rndIn ∧ t.inputs = s.inputs ∧ t.inputCount = s.inputCount := by
  have hkeep := exec_next_keeps h
  have hrow : (s.withWritten i t).keys = s.keys ∧ (s.withWritten i t).cfg = s.cfg ∧ (s.withWritten i t).rndIn = s.rndIn ∧
      (s.withWritten i t).inputs = s.inputs ∧ (s.withWritten i t).inputCount = s.inputCount := by
    cases i <;> exact ⟨rfl, rfl, rfl, rfl, rfl⟩
  rwa [← hkeep.keys_eq, ← hkeep.cfg_eq, ← hkeep.rndIn_eq, ← hkeep.inputs_eq, ← hkeep.inputCount_eq] at hrow

end

/-- Settles O57: element by element, from the rows of the tables that `exec_keeps_others` checks. -/
theorem elementsChangeOnlyByTheirWriters : Obligations.ElementsChangeOnlyByTheirWriters := fun _ _ _ h =>
  ⟨exec_mem_changed h, exec_fb_changed h, exec_stack_changed h, exec_i_changed h, exec_dt_changed h, exec_st_changed h,
    exec_keyWait_changed h, exec_stop_changed h, exec_keeps_inputs h⟩

end Sys2Proof.Machine

/-! # Which register an instruction may write (10_state R21, R22, R37) -/

namespace Sys2Proof.Machine

theorem State.getV_eq_of_v_eq {s t : State} (h : t.v = s.v) (q : Nibble) : t.getV q = s.getV q := by
  simp [State.getV, h]

section
variable {s : State} {q x : Nibble} {r f : Byte}

theorem State.setV_changed (hne : (s.setV x r).getV q ≠ s.getV q) : q = x := by
  by_contra hq
  exact hne (by rw [State.setV_getV, if_neg hq])

theorem State.setFlag_changed (hne : (s.setFlag f).getV q ≠ s.getV q) : q = 15#4 := State.setV_changed hne

/-- The flag written first, then the result, as in the shifts (42_alu R139, R141). -/
theorem State.setFlag_setV_changed (hne : ((s.setFlag f).setV x r).getV q ≠ s.getV q) : q = x ∨ q = 15#4 := by
  by_contra hq
  obtain ⟨hx, hflag⟩ := not_or.mp hq
  exact hne (by rw [State.setV_getV, if_neg hx, State.setFlag_getV, if_neg hflag])

theorem State.writeResultFlag_changed (hne : (s.writeResultFlag x r f).getV q ≠ s.getV q) : q = x ∨ q = 15#4 := by
  by_contra hq
  obtain ⟨hx, hflag⟩ := not_or.mp hq
  exact hne (by rw [State.writeResultFlag_getV, if_neg (fun h => hflag h.1), if_neg hx])

/-- `Fx65` reaches the registers up to `Vx` (43_index_memory R155). -/
theorem State.loadRegs_changed {a : Nat} (hne : (State.loadRegs (x.toNat + 1) 0 a s).getV q ≠ s.getV q) :
    q.toNat ≤ x.toNat := by
  by_contra hq
  exact hne (by rw [State.loadRegs_getV _ _ _ _ (by have := x.isLt; omega), if_neg (by omega)])

end

/-- `8xy7` writes `VF` under `SUBN_VF` = `not_borrow` only (42_alu R140). -/
theorem execSubn_changed {s t : State} {x y q : Nibble} (h : execSubn x y s = .next t) (hne : t.getV q ≠ s.getV q) :
    q = x ∨ q = 15#4 ∧ s.cfg.subnVf = .notBorrow := by
  unfold execSubn at h
  split at h
  · injection h with h
    exact Or.inl (State.setV_changed (h ▸ hne))
  · rename_i hvf
    injection h with h
    exact (State.writeResultFlag_changed (h ▸ hne)).imp_right (⟨·, hvf⟩)

/-- Settles O58: for an instruction whose row names registers, by what its writes can change; every other keeps the register
file by `exec_keeps_others`. -/
theorem registersChangeOnlyByTheirWriters : Obligations.RegistersChangeOnlyByTheirWriters := by
  intro i s t q h hne
  have hkeep := (exec_next_keeps h).v_eq
  cases i with
  | ldImm x | addImm x | ldReg x | or x | and x | xor x | rnd x | ldVxDt x =>
    injection h with h
    obtain rfl : q = x := State.setV_changed (h ▸ hne)
    exact Or.inl (by simp)
  | addReg x y | sub x y =>
    injection h with h
    obtain rfl | rfl : q = x ∨ q = 15#4 := State.writeResultFlag_changed (h ▸ hne)
    · exact Or.inl (by simp)
    · exact Or.inr (Or.inr (by simp))
  | shr x y | shl x y =>
    injection h with h
    obtain rfl | rfl : q = x ∨ q = 15#4 := State.setFlag_setV_changed (h ▸ hne)
    · exact Or.inl (by simp)
    · exact Or.inr (Or.inr (by simp))
  | subn x y =>
    obtain rfl | ⟨rfl, hvf⟩ := execSubn_changed h hne
    · exact Or.inl (by simp)
    · exact Or.inr (Or.inr (by simp [hvf]))
  | drw =>
    injection h with h
    obtain rfl : q = 15#4 := State.setFlag_changed (h ▸ hne)
    exact Or.inr (Or.inr (by simp))
  | ldVxMem x =>
    injection h with h
    exact Or.inr (Or.inl ⟨x, rfl, State.loadRegs_changed (h ▸ hne)⟩)
  | _ => exact absurd (State.getV_eq_of_v_eq hkeep q) hne

end Sys2Proof.Machine

/-! # `STOP` (10_state R29, 41_control_flow R113) -/

namespace Sys2Proof.Machine

/-- The address an instruction was fetched from is `PC` before the advance (40_step_cycle R95). -/
theorem State.advance_fetchAddr {s : State} (hc : 13 ≤ s.cfg.pcWidth) (hpc : s.pc.toNat < 4095) :
    s.advance.fetchAddr = s.pc := by
  have hnext : s.pcPlus2.toNat = s.pc.toNat + 2 := State.pcPlus2_toNat hc (by omega)
  have hadd : s.pcPlus2 = s.pc + 2#16 :=
    BitVec.eq_of_toNat_eq (by rw [hnext, BitVec.toNat_add, BitVec.toNat_ofNat]; omega)
  rw [State.fetchAddr, State.advance_pc, hadd, BitVec.add_sub_cancel]

/-- A 12-bit address is the 16-bit one with the same number. -/
theorem zextAddr_eq_iff (nnn : Addr12) (w : Word) : zextAddr nnn = w ↔ nnn.toNat = w.toNat := by
  have hlt := nnn.isLt
  rw [BitVec.toNat_inj.symm, zextAddr, BitVec.toNat_setWidth, Nat.mod_eq_of_lt (by omega)]

/-- `1nnn` sets `STOP` exactly when it targets the address it was fetched from. -/
theorem execJp_stop {nnn : Addr12} {s t : State} (h : execJp nnn s = .next t) :
    t.stop = true ↔ s.stop = true ∨ zextAddr nnn = s.fetchAddr := by
  injection h with h
  subst h
  split <;> simp [*]

/-- An instruction sets `STOP` exactly when it is a jump to the address it was fetched from, and none clears it. -/
theorem exec_stop {i : Instr} {s t : State} (h : exec i s = .next t) :
    t.stop = true ↔ s.stop = true ∨ ∃ nnn, i = .jp nnn ∧ zextAddr nnn = s.fetchAddr := by
  by_cases hjp : ∃ nnn, i = .jp nnn
  · obtain ⟨nnn, rfl⟩ := hjp
    simpa using execJp_stop h
  · have hstop : t.stop = s.stop := not_not.mp (mt (exec_stop_changed h) hjp)
    have hno : ¬ ∃ nnn, i = .jp nnn ∧ zextAddr nnn = s.fetchAddr := fun ⟨nnn, hi, _⟩ => hjp ⟨nnn, hi⟩
    rw [hstop, or_iff_left hno]

/-- For `STOP` a step is either one that executes nothing and leaves it, or the execution of the fetched instruction. -/
theorem step_stop_cases {s t : State} (h : step s = .next t) :
    (s.nextInstr = none ∧ t.stop = s.stop) ∨
    ∃ i u, s.pc.toNat < 4095 ∧ s.nextInstr = some i ∧ exec i s.begun.advance = .next u ∧ t = u.finish := by
  obtain ⟨hf, rfl⟩ | ⟨-, hk, rfl⟩ | ⟨-, -, hpc, rfl⟩ | ⟨i, u, -, -, hpc, hi, hu, ht⟩ := step_cases h
  · exact Or.inl ⟨if_neg (fun hn => hf hn.1), rfl⟩
  · rw [State.keyWaitStep_eq]
    exact Or.inl ⟨if_neg (fun hn => by simp [hk] at hn), rfl⟩
  · exact Or.inl ⟨if_neg (fun hn => by omega), rfl⟩
  · exact Or.inr ⟨i, u, hpc, hi, hu, ht⟩

theorem load_stop {s t : State} {image : List Byte} (h : s.load image = .next t) : t.stop = false := by
  unfold State.load at h
  split at h
  · injection h with h
    rw [← h]
    rfl
  · nomatch h

/-- Settles O28: by `exec_stop` where the step executes an instruction, since the fetch address is then the `PC` before it. -/
theorem stopIsSetByJumpToItselfAndClearedByLoad : Obligations.StopIsSetByJumpToItselfAndClearedByLoad := by
  refine ⟨?_, fun _ => rfl, fun _ _ _ h => load_stop h⟩
  intro s t hc h
  obtain ⟨hnone, hstop⟩ | ⟨i, u, hpc, hi, hu, rfl⟩ := step_stop_cases h
  · simp [hnone, hstop]
  · have haddr : s.begun.advance.fetchAddr = s.pc := State.advance_fetchAddr (s := s.begun) hc hpc
    rw [State.finish_stop, exec_stop hu, haddr, hi]
    simp [zextAddr_eq_iff]

end Sys2Proof.Machine

/-! # `ST` and the sampled byte (10_state R26, 42_alu R142): an instruction that reads neither commutes with a change of them -/

namespace Sys2Proof.Machine

/-- The state with `ST` and the sampled random byte changed by `f` and `g`. -/
def State.mapStRnd (f g : Byte → Byte) (s : State) : State := { s with st := f s.st, rndIn := g s.rndIn }

/-- The result with its next state changed by `State.mapStRnd`. -/
def resultMapStRnd (f g : Byte → Byte) : Result → Result
  | .next t => .next (t.mapStRnd f g)
  | .fault r => .fault r
  | .refused r => .refused r

section
variable (f g : Byte → Byte) (s : State)

@[simp] theorem State.mapStRnd_cfg : (s.mapStRnd f g).cfg = s.cfg := rfl
@[simp] theorem State.mapStRnd_kwPending : (s.mapStRnd f g).kwPending = s.kwPending := rfl
@[simp] theorem State.mapStRnd_fault : (s.mapStRnd f g).fault = s.fault := rfl
@[simp] theorem State.mapStRnd_keyIndex (x : Nibble) : (s.mapStRnd f g).keyIndex x = s.keyIndex x := rfl
@[simp] theorem State.mapStRnd_fetch : (s.mapStRnd f g).fetch = s.fetch := rfl

/-! ## Shared operations -/

theorem State.mapStRnd_skipIf (b : Bool) : (s.mapStRnd f g).skipIf b = (s.skipIf b).mapStRnd f g := by
  cases b <;> rfl

theorem State.mapStRnd_undefinedEF : (s.mapStRnd f g).undefinedEF = s.undefinedEF.mapStRnd f g := by
  rw [State.undefinedEF, State.undefinedEF, State.mapStRnd_cfg]
  cases s.cfg.reservedEf <;> rfl

theorem State.mapStRnd_pushAndJump (ret target : Word) :
    (s.mapStRnd f g).pushAndJump ret target = (s.pushAndJump ret target).mapStRnd f g := by
  rw [State.pushAndJump, State.pushAndJump, apply_ite (State.mapStRnd f g)]
  rfl

theorem State.mapStRnd_popAndJump : (s.mapStRnd f g).popAndJump = s.popAndJump.mapStRnd f g := by
  rcases s.stack.eq_nil_or_concat' with h | ⟨rest, _, h⟩
  · rw [State.popAndJump_of_empty h, State.popAndJump_of_empty (s := s.mapStRnd f g) h]
    rfl
  · rw [State.popAndJump_of_append h, State.popAndJump_of_append (s := s.mapStRnd f g) h]
    rfl

theorem State.mapStRnd_writeResultFlag (x : Nibble) (r c : Byte) :
    (s.mapStRnd f g).writeResultFlag x r c = (s.writeResultFlag x r c).mapStRnd f g := by
  rw [State.writeResultFlag, State.writeResultFlag, State.mapStRnd_cfg]
  cases s.cfg.flagOrder <;> rfl

theorem State.mapStRnd_storeBytes (bs : List Byte) (a : Nat) :
    State.storeBytes bs a (s.mapStRnd f g) = (State.storeBytes bs a s).mapStRnd f g := by
  induction bs generalizing a s with
  | nil => rfl
  | cons b bs ih =>
    rw [State.storeBytes, State.storeBytes, apply_ite (State.mapStRnd f g), ← ih]
    rfl

theorem State.mapStRnd_loadRegs (k r a : Nat) :
    State.loadRegs k r a (s.mapStRnd f g) = (State.loadRegs k r a s).mapStRnd f g := by
  induction k generalizing r a s with
  | zero => rfl
  | succ k ih =>
    rw [State.loadRegs, State.loadRegs, apply_ite (State.mapStRnd f g), ← ih]
    rfl

theorem State.mapStRnd_keyWaitStep : (s.mapStRnd f g).keyWaitStep = s.keyWaitStep.mapStRnd f g := by
  rw [State.keyWaitStep, State.keyWaitStep, apply_ite (State.mapStRnd f g)]
  rfl

/-! ## Instructions -/

theorem execJp_mapStRnd (nnn : Addr12) : execJp nnn (s.mapStRnd f g) = resultMapStRnd f g (execJp nnn s) := by
  rw [execJp, execJp, resultMapStRnd, apply_ite (State.mapStRnd f g)]
  rfl

theorem execSubn_mapStRnd (x y : Nibble) : execSubn x y (s.mapStRnd f g) = resultMapStRnd f g (execSubn x y s) := by
  rw [execSubn, execSubn, State.mapStRnd_cfg]
  cases s.cfg.subnVf with
  | unchanged => rfl
  | notBorrow => exact congrArg _ (State.mapStRnd_writeResultFlag f g s _ _ _)

theorem execSkp_mapStRnd (x : Nibble) : execSkp x (s.mapStRnd f g) = resultMapStRnd f g (execSkp x s) := by
  rw [execSkp, execSkp, State.mapStRnd_keyIndex]
  cases s.keyIndex x with
  | none => rfl
  | some _ => exact congrArg _ (State.mapStRnd_skipIf f g s _)

theorem execSknp_mapStRnd (x : Nibble) : execSknp x (s.mapStRnd f g) = resultMapStRnd f g (execSknp x s) := by
  rw [execSknp, execSknp, State.mapStRnd_keyIndex]
  cases s.keyIndex x with
  | none => rfl
  | some _ => exact congrArg _ (State.mapStRnd_skipIf f g s _)

/-- Every instruction but `Fx18`, which writes `ST`, and `Cxkk`, which reads the sampled byte, neither reads nor writes the
two. -/
theorem exec_mapStRnd {i : Instr} (hst : ∀ x, i ≠ .ldStVx x) (hrnd : ∀ x kk, i ≠ .rnd x kk) :
    exec i (s.mapStRnd f g) = resultMapStRnd f g (exec i s) := by
  cases i with
  | cls | jp0 | jpV0 | ldImm | addImm | ldReg | or | and | xor | shr | shl | ldI | drw | ldVxDt | ldVxK | ldDtVx | addI | ldF
  | reserved8 => rfl
  | ldStVx x => exact absurd rfl (hst x)
  | rnd x kk => exact absurd rfl (hrnd x kk)
  | ret => exact congrArg _ (State.mapStRnd_popAndJump f g s)
  | jp nnn => exact execJp_mapStRnd f g s nnn
  | call => exact congrArg _ (State.mapStRnd_pushAndJump f g s _ _)
  | seImm | sneImm | seReg | sneReg => exact congrArg _ (State.mapStRnd_skipIf f g s _)
  | addReg | sub => exact congrArg _ (State.mapStRnd_writeResultFlag f g s _ _ _)
  | subn x y => exact execSubn_mapStRnd f g s x y
  | skp x => exact execSkp_mapStRnd f g s x
  | sknp x => exact execSknp_mapStRnd f g s x
  | ldB | ldMemVx => exact congrArg _ (State.mapStRnd_storeBytes f g s _ _)
  | ldVxMem => exact congrArg _ (State.mapStRnd_loadRegs f g s _ _ _)
  | reservedE | reservedF => exact congrArg _ (State.mapStRnd_undefinedEF f g s)

end

/-! ## `ST` alone, through a step -/

/-- The two results are next states that differ in `ST` at most, or the same stop. -/
def AgreeButSt (r r' : Result) : Prop := ∃ b, r' = resultMapStRnd (fun _ => b) id r

section
variable (s : State) (b : Byte)

/-- `Fx18` writes the same `ST` to both states; every other instruction leaves what each holds. -/
theorem exec_agreeButSt (i : Instr) : AgreeButSt (exec i s) (exec i (s.mapStRnd (fun _ => b) id)) := by
  cases i with
  | ldStVx x => exact ⟨s.getV x, rfl⟩
  | rnd => exact ⟨b, rfl⟩
  | _ => exact ⟨b, exec_mapStRnd _ _ s (fun _ => nofun) (fun _ _ => nofun)⟩

theorem AgreeButSt.finishResult {r r' : Result} (h : AgreeButSt r r') : AgreeButSt (finishResult r) (finishResult r') := by
  obtain ⟨c, rfl⟩ := h
  exact ⟨c, by cases r <;> rfl⟩

theorem stepLive_agreeButSt : AgreeButSt (stepLive s) (stepLive (s.mapStRnd (fun _ => b) id)) := by
  rw [stepLive, stepLive, State.mapStRnd_kwPending, State.mapStRnd_fetch]
  by_cases hk : s.kwPending = true
  · rw [if_pos hk, if_pos hk]
    exact ⟨b, congrArg _ (State.mapStRnd_keyWaitStep _ id s)⟩
  rw [if_neg hk, if_neg hk]
  cases s.fetch with
  | none => exact ⟨b, rfl⟩
  | some word => exact (exec_agreeButSt s.advance b _).finishResult

/-- The tick reads `ST` only to write it (40_step_cycle R91). -/
theorem step_agreeButSt : AgreeButSt (step s) (step (s.mapStRnd (fun _ => b) id)) := by
  change AgreeButSt (stepWith s.nextInput s.takeInput) (stepWith s.nextInput (s.takeInput.mapStRnd (fun _ => b) id))
  rw [stepWith, stepWith, State.mapStRnd_fault]
  cases s.takeInput.fault with
  | some _ => exact ⟨b, rfl⟩
  | none => exact stepLive_agreeButSt s.begun (decr b)

end

/-- Settles O60: by `step_agreeButSt`, of a step that answers a next state. -/
theorem soundTimerIsNeverRead : Obligations.SoundTimerIsNeverRead := by
  intro s t b h
  obtain ⟨c, hstep⟩ := step_agreeButSt s b
  rw [h] at hstep
  exact ⟨t.mapStRnd (fun _ => c) id, hstep, rfl⟩

end Sys2Proof.Machine

/-! # Instruction words in memory (20_memory R54, R61): decoding undoes encoding, and a fetch reads what was stored -/

namespace Sys2Proof

open Laws.EncodingClass (fieldC_encNNN fieldC_encXKK fieldC_encXYN)

/-! ## The fields of each format (30_encoding R71) -/

theorem fieldNNN_encNNN (c : Nibble) (nnn : Addr12) : fieldNNN (encNNN c nnn) = nnn := BitVec.extractLsb'_append_eq_right

theorem fieldKK_encXKK (c x : Nibble) (kk : Byte) : fieldKK (encXKK c x kk) = kk := BitVec.extractLsb'_append_eq_right

theorem fieldX_encXKK (c x : Nibble) (kk : Byte) : fieldX (encXKK c x kk) = x := by
  have hlow : fieldX (encXKK c x kk) = (c ++ x).extractLsb' 0 4 := BitVec.extractLsb'_append_eq_of_le (by decide)
  exact hlow.trans BitVec.extractLsb'_append_eq_right

theorem fieldX_encXYN (c x y n : Nibble) : fieldX (encXYN c x y n) = x := fieldX_encXKK c x (y ++ n)

theorem fieldY_encXYN (c x y n : Nibble) : fieldY (encXYN c x y n) = y := by
  have hlow : fieldY (encXYN c x y n) = (y ++ n).extractLsb' 4 4 := BitVec.extractLsb'_append_eq_of_add_le (by decide)
  exact hlow.trans BitVec.extractLsb'_append_eq_left

theorem fieldN_encXYN (c x y n : Nibble) : fieldN (encXYN c x y n) = n := by
  have hlow : fieldN (encXYN c x y n) = (y ++ n).extractLsb' 0 4 := BitVec.extractLsb'_append_eq_of_add_le (by decide)
  exact hlow.trans BitVec.extractLsb'_append_eq_right

/-! ## Classes of several rows: each decodes by its own tests (30_encoding R73) -/

theorem decodeWord_class0 (nnn : Addr12) : decodeWord (encNNN 0x0 nnn) = decodeClass0 nnn := by
  simp [decodeWord, fieldC_encNNN, fieldNNN_encNNN]

theorem decodeWord_class8 (x y n : Nibble) : decodeWord (encXYN 0x8 x y n) = decodeClass8 x y n := by
  simp [decodeWord, fieldC_encXYN, fieldX_encXYN, fieldY_encXYN, fieldN_encXYN]

theorem decodeWord_classE (x : Nibble) (kk : Byte) : decodeWord (encXKK 0xE x kk) = decodeClassE x kk := by
  simp [decodeWord, fieldC_encXKK, fieldX_encXKK, fieldKK_encXKK]

theorem decodeWord_classF (x : Nibble) (kk : Byte) : decodeWord (encXKK 0xF x kk) = decodeClassF x kk := by
  simp [decodeWord, fieldC_encXKK, fieldX_encXKK, fieldKK_encXKK]

/-! ## What the tests of a class leave over (30_encoding R75, R78, R79)

Every test compares with a word or sub-opcode that the class defines, and a row that is left over holds none of those. -/

theorem decodeClass0_of_wellFormed {nnn : Addr12} (h : (Instr.jp0 nnn).wellFormed = true) :
    decodeClass0 nnn = .jp0 nnn := by
  simp only [Instr.wellFormed, Bool.and_eq_true, bne_iff_ne] at h
  obtain ⟨hcls, hret⟩ := h
  rw [decodeClass0, if_neg hcls, if_neg hret]

theorem decodeClass8_of_wellFormed {x y n : Nibble} (h : (Instr.reserved8 x y n).wellFormed = true) :
    decodeClass8 x y n = .reserved8 x y n := by
  have hne {d : Nibble} (hd : d ∈ defined8) : n ≠ d := by
    rintro rfl
    simp [Instr.wellFormed, hd] at h
  rw [decodeClass8]
  iterate 9 rw [if_neg (hne (by decide))]

theorem decodeClassE_of_wellFormed {x : Nibble} {kk : Byte} (h : (Instr.reservedE x kk).wellFormed = true) :
    decodeClassE x kk = .reservedE x kk := by
  have hne {d : Byte} (hd : d ∈ definedE) : kk ≠ d := by
    rintro rfl
    simp [Instr.wellFormed, hd] at h
  rw [decodeClassE]
  iterate 2 rw [if_neg (hne (by decide))]

theorem decodeClassF_of_wellFormed {x : Nibble} {kk : Byte} (h : (Instr.reservedF x kk).wellFormed = true) :
    decodeClassF x kk = .reservedF x kk := by
  have hne {d : Byte} (hd : d ∈ definedF) : kk ≠ d := by
    rintro rfl
    simp [Instr.wellFormed, hd] at h
  rw [decodeClassF]
  iterate 9 rw [if_neg (hne (by decide))]

/-- Every row's word decodes to the row: a row alone in its class by its fields, a row of a shared class by the tests of
that class. -/
theorem decodeWord_encode {i : Instr} (h : i.wellFormed = true) : decodeWord (encode i) = i := by
  cases i with
  | cls | ret => rfl
  | jp0 nnn => exact (decodeWord_class0 nnn).trans (decodeClass0_of_wellFormed h)
  | jp | call | ldI | jpV0 => simp [encode, decodeWord, fieldC_encNNN, fieldNNN_encNNN]
  | seImm | sneImm | ldImm | addImm | rnd => simp [encode, decodeWord, fieldC_encXKK, fieldX_encXKK, fieldKK_encXKK]
  | seReg | sneReg | drw => simp [encode, decodeWord, fieldC_encXYN, fieldX_encXYN, fieldY_encXYN, fieldN_encXYN]
  | ldReg | or | and | xor | addReg | sub | shr | subn | shl => exact decodeWord_class8 _ _ _
  | skp | sknp => exact decodeWord_classE _ _
  | ldVxDt | ldVxK | ldDtVx | ldStVx | addI | ldF | ldB | ldMemVx | ldVxMem => exact decodeWord_classF _ _
  | reserved8 x y n => exact (decodeWord_class8 x y n).trans (decodeClass8_of_wellFormed h)
  | reservedE x kk => exact (decodeWord_classE x kk).trans (decodeClassE_of_wellFormed h)
  | reservedF x kk => exact (decodeWord_classF x kk).trans (decodeClassF_of_wellFormed h)

/-- A word is its two bytes, the high one first (20_memory R54). -/
theorem wordOfBytes_hiByte_loByte (w : Word) : wordOfBytes (hiByte w) (loByte w) = w := by
  have hjoin : wordOfBytes (hiByte w) (loByte w) = w.extractLsb' 0 16 :=
    BitVec.extractLsb'_append_extractLsb'_eq_extractLsb' rfl
  exact hjoin.trans BitVec.extractLsb'_eq_self

/-- The decoder takes the two bytes of an instruction's word and leaves what follows them (30_encoding R70). -/
theorem decode_encodeBytes_append (i : Instr) (rest : List Byte) :
    decode (encodeBytes i ++ rest) = .ok (decodeWord (encode i), rest) := by
  simp [decode, encodeBytes, wordOfBytes_hiByte_loByte]

/-- Settles O2: the two bytes join to the instruction's word, which decodes to it by `decodeWord_encode`. -/
theorem decodeOfEncodeIsTheInstruction : Obligations.DecodeOfEncodeIsTheInstruction := by
  intro i rest h
  rw [decode_encodeBytes_append, decodeWord_encode h]

end Sys2Proof

/-! ## Bytes that `Fx55` stored, fetched (20_memory R61) -/

namespace Sys2Proof.Machine

/-- Memory reads alike in two states with the same bytes and configuration. -/
theorem State.readMem_congr {s t : State} (hmem : s.mem = t.mem) (hcfg : s.cfg = t.cfg) (a : Nat) :
    s.readMem a = t.readMem a := by
  rw [State.readMem, State.readMem, hmem, hcfg]

/-- The byte that `Fx55` leaves at `I + k` is `Vk` (43_index_memory R154). -/
theorem execLdMemVx_readMem {s t : State} {x : Nibble} (h : execLdMemVx x s = .next t)
    (hfit : s.i.toNat + x.toNat < Config.memSize) {k : Nat} (hk : k ≤ x.toNat) :
    t.readMem (s.i.toNat + k) = s.getV (BitVec.ofNat 4 k) := by
  injection h with h
  subst h
  have hin : s.i.toNat ≤ s.i.toNat + k ∧ s.i.toNat + k < s.i.toNat + (s.regsUpTo x).length ∧
      s.i.toNat + k < Config.memSize := by
    rw [State.regsUpTo_length]
    omega
  rw [State.ea, Nat.add_zero, State.storeBytes_readMem, if_pos hin, Nat.add_sub_cancel_left, State.regsUpTo_getD s x k hk]

/-- A machine that can fetch executes next what the two bytes at `PC` decode to (40_step_cycle R95, R97). -/
theorem State.nextInstr_of_fetches {s : State} (hf : s.fault = none) (hk : s.kwPending = false) (hpc : s.pc.toNat < 4095) :
    s.nextInstr = some (decodeWord (wordOfBytes (s.readMem s.pc.toNat) (s.readMem (s.pc.toNat + 1)))) :=
  if_pos ⟨hf, hk, hpc⟩

/-- Settles O49: memory at `I + k` and `I + k + 1` holds `Vk` and `Vk+1`, and the fetch there reads memory alone. -/
theorem storedBytesAreFetched : Obligations.StoredBytesAreFetched := by
  intro s t u x k hfit hk hstore hmem hcfg hpc hf hkw
  have hstored {j : Nat} (hj : j ≤ x.toNat) : u.readMem (s.i.toNat + j) = s.getV (BitVec.ofNat 4 j) :=
    (State.readMem_congr hmem hcfg _).trans (execLdMemVx_readMem hstore hfit hj)
  have hfirst : u.readMem u.pc.toNat = s.getV (BitVec.ofNat 4 k) := hpc ▸ hstored (Nat.le_of_lt hk)
  have hsecond : u.readMem (u.pc.toNat + 1) = s.getV (BitVec.ofNat 4 (k + 1)) := hpc ▸ hstored (j := k + 1) hk
  rw [State.nextInstr_of_fetches hf hkw (by omega), hfirst, hsecond]

end Sys2Proof.Machine

/-! # Every word is an instruction's (30_encoding R73, R80): the fields of a word make it up, and the decoder keeps them all -/

namespace Sys2Proof

open Laws.EncodingClass (fieldC_encXKK fieldC_encXYN)

/-! ## The fields of a word (00_scope R13) -/

section
variable (w : Word)

theorem fieldC_toNat : (fieldC w).toNat = w.toNat / 4096 := by
  have hw := w.isLt
  rw [fieldC, BitVec.extractLsb'_toNat, Nat.shiftRight_eq_div_pow]
  omega

theorem fieldN_toNat : (fieldN w).toNat = w.toNat % 16 := BitVec.extractLsb'_toNat 0 4 w

theorem fieldKK_toNat : (fieldKK w).toNat = w.toNat % 256 := BitVec.extractLsb'_toNat 0 8 w

theorem fieldNNN_eq_ofNat : fieldNNN w = BitVec.ofNat 12 w.toNat := rfl

theorem fieldC_append_fieldX : fieldC w ++ fieldX w = hiByte w := BitVec.extractLsb'_append_extractLsb'_eq_extractLsb' rfl

theorem fieldY_append_fieldN : fieldY w ++ fieldN w = fieldKK w := BitVec.extractLsb'_append_extractLsb'_eq_extractLsb' rfl

theorem encNNN_fields : encNNN (fieldC w) (fieldNNN w) = w := by
  have hjoin : encNNN (fieldC w) (fieldNNN w) = w.extractLsb' 0 16 :=
    BitVec.extractLsb'_append_extractLsb'_eq_extractLsb' rfl
  exact hjoin.trans BitVec.extractLsb'_eq_self

theorem encXKK_fields : encXKK (fieldC w) (fieldX w) (fieldKK w) = w := by
  rw [encXKK, fieldC_append_fieldX]
  exact wordOfBytes_hiByte_loByte w

theorem encXYN_fields : encXYN (fieldC w) (fieldX w) (fieldY w) (fieldN w) = w := by
  rw [encXYN, fieldY_append_fieldN]
  exact encXKK_fields w

end

section
variable {w : Word} {c : Nibble} (hc : (fieldC w).toNat = c.toNat)
include hc

theorem encNNN_of_fieldC : encNNN c (fieldNNN w) = w := BitVec.eq_of_toNat_eq hc ▸ encNNN_fields w

theorem encXKK_of_fieldC : encXKK c (fieldX w) (fieldKK w) = w := BitVec.eq_of_toNat_eq hc ▸ encXKK_fields w

theorem encXYN_of_fieldC : encXYN c (fieldX w) (fieldY w) (fieldN w) = w := BitVec.eq_of_toNat_eq hc ▸ encXYN_fields w

end

/-! ## The decoder answers the instruction that stands for the word (30_encoding R73, R80)

In a class of several rows the selecting field holds a value that the class defines, and the row's word holds the same, or
the row left over takes it. -/

/-- The instruction is well-formed and `w` is its word (30_encoding R74). -/
def Instr.StandsFor (i : Instr) (w : Word) : Prop := i.wellFormed = true ∧ encode i = w

theorem Instr.StandsFor.congr {i : Instr} {v w : Word} (h : i.StandsFor v) (hvw : v = w) : i.StandsFor w := hvw ▸ h

theorem decodeClass0_standsFor (nnn : Addr12) : (decodeClass0 nnn).StandsFor (encNNN 0x0 nnn) := by
  by_cases hwf : (Instr.jp0 nnn).wellFormed = true
  · exact decodeClass0_of_wellFormed hwf ▸ ⟨hwf, rfl⟩
  · obtain rfl | rfl : nnn = 0x0E0#12 ∨ nnn = 0x0EE#12 := by
      simpa [Instr.wellFormed, or_iff_not_imp_left] using hwf
    all_goals exact ⟨rfl, rfl⟩

theorem decodeClass8_standsFor (x y n : Nibble) : (decodeClass8 x y n).StandsFor (encXYN 0x8 x y n) := by
  by_cases hwf : (Instr.reserved8 x y n).wellFormed = true
  · exact decodeClass8_of_wellFormed hwf ▸ ⟨hwf, rfl⟩
  · have hdef : n ∈ defined8 := by simpa [Instr.wellFormed] using hwf
    simp only [defined8, List.mem_cons, List.not_mem_nil, or_false] at hdef
    obtain rfl | rfl | rfl | rfl | rfl | rfl | rfl | rfl | rfl := hdef
    all_goals exact ⟨rfl, rfl⟩

theorem decodeClassE_standsFor (x : Nibble) (kk : Byte) : (decodeClassE x kk).StandsFor (encXKK 0xE x kk) := by
  by_cases hwf : (Instr.reservedE x kk).wellFormed = true
  · exact decodeClassE_of_wellFormed hwf ▸ ⟨hwf, rfl⟩
  · have hdef : kk ∈ definedE := by simpa [Instr.wellFormed] using hwf
    simp only [definedE, List.mem_cons, List.not_mem_nil, or_false] at hdef
    obtain rfl | rfl := hdef
    all_goals exact ⟨rfl, rfl⟩

theorem decodeClassF_standsFor (x : Nibble) (kk : Byte) : (decodeClassF x kk).StandsFor (encXKK 0xF x kk) := by
  by_cases hwf : (Instr.reservedF x kk).wellFormed = true
  · exact decodeClassF_of_wellFormed hwf ▸ ⟨hwf, rfl⟩
  · have hdef : kk ∈ definedF := by simpa [Instr.wellFormed] using hwf
    simp only [definedF, List.mem_cons, List.not_mem_nil, or_false] at hdef
    obtain rfl | rfl | rfl | rfl | rfl | rfl | rfl | rfl | rfl := hdef
    all_goals exact ⟨rfl, rfl⟩

theorem decodeWord_standsFor (w : Word) : (decodeWord w).StandsFor w := by
  rw [decodeWord]
  split
  case h_1 hc => exact (decodeClass0_standsFor _).congr (encNNN_of_fieldC hc)
  case h_9 hc => exact (decodeClass8_standsFor _ _ _).congr (encXYN_of_fieldC hc)
  case h_15 hc => exact (decodeClassE_standsFor _ _).congr (encXKK_of_fieldC hc)
  case h_16 =>
    have hc : (fieldC w).toNat = 15 := by
      have hlt := (fieldC w).isLt
      grind
    exact (decodeClassF_standsFor _ _).congr (encXKK_of_fieldC hc)
  case h_2 hc | h_3 hc | h_11 hc | h_12 hc => exact ⟨rfl, encNNN_of_fieldC hc⟩
  case h_4 hc | h_5 hc | h_7 hc | h_8 hc | h_13 hc => exact ⟨rfl, encXKK_of_fieldC hc⟩
  case h_6 hc | h_10 hc | h_14 hc => exact ⟨rfl, encXYN_of_fieldC hc⟩

/-- Settles O3: class by class, the decoder answers the instruction that stands for the word. -/
theorem encodeOfDecodeIsTheWord : Obligations.EncodeOfDecodeIsTheWord := decodeWord_standsFor

/-! ## The reserved words (30_encoding R78, R79) -/

/-- The decoder answers exactly the instruction that stands for the word. -/
theorem decodeWord_eq_iff {w : Word} {i : Instr} : decodeWord w = i ↔ i.StandsFor w := by
  constructor
  · rintro rfl
    exact decodeWord_standsFor w
  · rintro ⟨hwf, rfl⟩
    exact decodeWord_encode hwf

section
variable (w : Word)

theorem decodeWord_reserved8_iff :
    (∃ x y n, decodeWord w = .reserved8 x y n) ↔ (fieldC w).toNat = 8 ∧ fieldN w ∉ defined8 := by
  constructor
  · rintro ⟨x, y, n, h⟩
    obtain ⟨hwf, rfl⟩ := decodeWord_eq_iff.mp h
    rw [encode, fieldC_encXYN, fieldN_encXYN]
    exact ⟨rfl, by simpa [Instr.wellFormed] using hwf⟩
  · rintro ⟨hc, hn⟩
    exact ⟨_, _, _, decodeWord_eq_iff.mpr ⟨by simpa [Instr.wellFormed] using hn, encXYN_of_fieldC hc⟩⟩

/-- The row left over in a class that the low byte selects takes the words whose low byte the class does not define. -/
theorem decodeWord_leftOver_iff {row : Nibble → Byte → Instr} {c : Nibble} {defined : List Byte}
    (henc : ∀ x kk, encode (row x kk) = encXKK c x kk) (hwf : ∀ x kk, (row x kk).wellFormed = !defined.contains kk) :
    (∃ x kk, decodeWord w = row x kk) ↔ (fieldC w).toNat = c.toNat ∧ fieldKK w ∉ defined := by
  simp only [decodeWord_eq_iff, Instr.StandsFor, henc, hwf, Bool.not_eq_true', List.contains_eq_mem, decide_eq_false_iff_not]
  constructor
  · rintro ⟨x, kk, hkk, rfl⟩
    rw [fieldC_encXKK, fieldKK_encXKK]
    exact ⟨rfl, hkk⟩
  · rintro ⟨hc, hkk⟩
    exact ⟨_, _, hkk, encXKK_of_fieldC hc⟩

theorem decodeWord_reservedE_iff :
    (∃ x kk, decodeWord w = .reservedE x kk) ↔ (fieldC w).toNat = 14 ∧ fieldKK w ∉ definedE :=
  decodeWord_leftOver_iff w (row := .reservedE) (c := 0xE) (fun _ _ => rfl) (fun _ _ => rfl)

theorem decodeWord_reservedF_iff :
    (∃ x kk, decodeWord w = .reservedF x kk) ↔ (fieldC w).toNat = 15 ∧ fieldKK w ∉ definedF :=
  decodeWord_leftOver_iff w (row := .reservedF) (c := 0xF) (fun _ _ => rfl) (fun _ _ => rfl)

end

/-- The fourth nibbles that class 8 does not define (30_encoding R78). -/
theorem not_mem_defined8_iff :
    ∀ n : Nibble, n ∉ defined8 ↔ n.toNat ∈ [8, 9, 0xA, 0xB, 0xC, 0xD, 0xF] := by decide

/-- A bit vector is among those listed exactly when its number is among theirs. -/
theorem mem_iff_toNat_mem {k : Nat} (b : BitVec k) (bs : List (BitVec k)) : b ∈ bs ↔ b.toNat ∈ bs.map BitVec.toNat :=
  (List.mem_map_of_injective BitVec.toNat_injective).symm

/-- Settles O4: a reserved row stands for the words of its class whose selecting field is not defined. -/
theorem reservedWordsAreExactlyTheListed : Obligations.ReservedWordsAreExactlyTheListed := by
  intro w
  rw [decodeWord_reserved8_iff, decodeWord_reservedE_iff, decodeWord_reservedF_iff, not_mem_defined8_iff,
    mem_iff_toNat_mem _ definedE, mem_iff_toNat_mem _ definedF, fieldC_toNat, fieldN_toNat, fieldKK_toNat]
  exact ⟨Iff.rfl, Iff.rfl, Iff.rfl⟩

/-- Settles O1: the decoder evaluated on each word. -/
theorem wordsDecodeAsTheTableSays : Obligations.WordsDecodeAsTheTableSays := by
  unfold Obligations.WordsDecodeAsTheTableSays
  decide

/-! ## Class 0 (30_encoding R75) -/

theorem decodeWord_of_lt {w : Word} (h : w.toNat < 0x1000) :
    decodeWord w =
      if w.toNat = 0x00E0 then .cls else if w.toNat = 0x00EE then .ret else .jp0 (BitVec.ofNat 12 w.toNat) := by
  have hc : (fieldC w).toNat = 0 := by
    rw [fieldC_toNat]
    omega
  have hnnn (k : Addr12) : fieldNNN w = k ↔ w.toNat = k.toNat := by
    rw [← BitVec.toNat_inj, fieldNNN_eq_ofNat, BitVec.toNat_ofNat, Nat.mod_eq_of_lt h]
  have hclass : decodeWord w = decodeClass0 (fieldNNN w) :=
    (congrArg decodeWord (encNNN_of_fieldC hc)).symm.trans (decodeWord_class0 _)
  simp only [hclass, decodeClass0, hnnn]
  rfl

end Sys2Proof

namespace Sys2Proof.Machine

/-- After `Load` of an empty image every byte outside the font is zero (20_memory R51). -/
theorem load_empty_readMem {s t : State} (h : s.load [] = .next t) {a : Nat} (ha : 80 ≤ a) : t.readMem a = 0#8 := by
  injection h with h
  subst h
  exact dif_neg (Nat.not_lt.mpr ha)

/-- Settles O5: the tests of class 0 on the word's number, the raw jump, and the decoded word of two zero bytes. -/
theorem classZeroIsTwoFixedWordsAndTheRawJump : Obligations.ClassZeroIsTwoFixedWordsAndTheRawJump := by
  refine ⟨fun w h => decodeWord_of_lt h, fun nnn s => ?_, fun s t a h hlo _ => ?_⟩
  · rw [BitVec.ofNat_toNat]
    rfl
  · rw [load_empty_readMem h hlo, load_empty_readMem h (Nat.le_succ_of_le hlo)]
    rfl

/-- Settles O6: neither meaning takes the fourth nibble. -/
theorem fourthNibbleOfClasses5And9IsIgnored : Obligations.FourthNibbleOfClasses5And9IsIgnored :=
  fun _ _ _ _ => ⟨rfl, rfl⟩

/-! ## What a reserved word does (30_encoding R78, R79) -/

section
variable {s : State}

/-- An instruction whose meaning raises a fault, where none is latched, raises it at once (60_exceptions R203). -/
theorem raisesAtOnce_of_raise {i : Instr} {f : FaultCode} (hf : s.fault = none) (h : exec i s = .next (s.raise f)) :
    RaisesAtOnce i s f := by
  rw [RaisesAtOnce, h, State.raise_of_noFault hf]

theorem State.undefinedEF_of_fault (h : s.cfg.reservedEf = .fault) : s.undefinedEF = s.raise .unsupportedOpcode := by
  rw [State.undefinedEF, h]

theorem State.undefinedEF_of_nop (h : s.cfg.reservedEf = .nop) : s.undefinedEF = s := by
  rw [State.undefinedEF, h]

end

/-- Settles O56: class 8 raises the fault itself, classes E and F do what `RESERVED_EF` names. -/
theorem reservedWordsRaiseOrDoNothing : Obligations.ReservedWordsRaiseOrDoNothing := by
  intro s x y n kk
  refine ⟨fun hf => raisesAtOnce_of_raise hf rfl, fun hf hcfg => ?_, fun hcfg => ?_⟩
  · have hraise : Host.Outcome.next s.undefinedEF = (.next (s.raise .unsupportedOpcode) : Result) :=
      congrArg _ (State.undefinedEF_of_fault hcfg)
    exact ⟨raisesAtOnce_of_raise hf hraise, raisesAtOnce_of_raise hf hraise⟩
  · have hnop : Host.Outcome.next s.undefinedEF = (.next s : Result) := congrArg _ (State.undefinedEF_of_nop hcfg)
    exact ⟨hnop, hnop⟩

end Sys2Proof.Machine

/-! # A live step by its form (40_step_cycle R90): the equation of each of the forms that `step_cases` lists -/

namespace Sys2Proof.Machine

section
variable {s : State}

/-- The tick and the poll in full (40_step_cycle R91, R92), the decrement as a truncated subtraction. -/
theorem State.begun_eq (s : State) :
    s.begun =
      { s with
        dt := BitVec.ofNat 8 (s.dt.toNat - 1), st := BitVec.ofNat 8 (s.st.toNat - 1), keys := s.nextInput.keys
        drawStrobe := false, rndIn := s.nextInput.rnd, inputs := s.inputs.tail, inputCount := s.inputCount + 1 } := by
  rw [← decr_eq, ← decr_eq]
  rfl

theorem State.keyWaitStep_of_no_key (h : s.keys = 0#16) : s.keyWaitStep = { s with contin := true } := if_pos h

theorem State.keyWaitStep_of_key (h : s.keys ≠ 0#16) :
    s.keyWaitStep =
      { s.setV s.kwTarget (BitVec.ofNat 8 (lowestSet s.keys)) with kwPending := false, contin := true } := if_neg h

/-! ## After the tick and the poll -/

theorem stepLive_of_keyWait (hk : s.kwPending = true) : stepLive s = .next s.keyWaitStep := if_pos hk

theorem stepLive_of_fetch_fault (hk : s.kwPending = false) (hpc : 4095 ≤ s.pc.toNat) :
    stepLive s = .next (s.raise .outOfBoundsAccess) := by
  rw [stepLive, hk, State.fetch_of_ge hpc]
  rfl

theorem stepLive_of_fetch (hk : s.kwPending = false) (hpc : s.pc.toNat < 4095) :
    stepLive s =
      finishResult (exec (decodeWord (wordOfBytes (s.readMem s.pc.toNat) (s.readMem (s.pc.toNat + 1)))) s.advance) := by
  rw [stepLive, hk, State.fetch_of_lt hpc]
  rfl

/-! ## Whole steps -/

theorem stepWith_of_fault (hf : s.fault ≠ none) (inp : StepInput) : stepWith inp s = .next s.frozen := by
  obtain ⟨c, hc⟩ := Option.ne_none_iff_exists'.mp hf
  rw [stepWith, hc]

theorem stepWith_of_noFault (hf : s.fault = none) (inp : StepInput) : stepWith inp s = stepLive (s.begin inp) := by
  rw [stepWith, hf]

theorem step_of_fault (hf : s.fault ≠ none) : step s = .next s.takeInput.frozen :=
  stepWith_of_fault (s := s.takeInput) hf s.nextInput

theorem step_of_noFault (hf : s.fault = none) : step s = stepLive s.begun :=
  stepWith_of_noFault (s := s.takeInput) hf s.nextInput

theorem State.nextInstr_eq_some {i : Instr} (hi : s.nextInstr = some i) :
    s.fault = none ∧ s.kwPending = false ∧ s.pc.toNat < 4095 ∧
      decodeWord (wordOfBytes (s.readMem s.pc.toNat) (s.readMem (s.pc.toNat + 1))) = i := by
  obtain ⟨⟨hf, hk, hpc⟩, hw⟩ := Option.ite_none_right_eq_some.mp hi
  exact ⟨hf, hk, hpc, Option.some.inj hw⟩

theorem step_of_nextInstr {i : Instr} (hi : s.nextInstr = some i) : step s = finishResult (exec i s.begun.advance) := by
  obtain ⟨hf, hk, hpc, rfl⟩ := State.nextInstr_eq_some hi
  rw [step_of_noFault hf]
  exact stepLive_of_fetch (s := s.begun) hk hpc

end

/-! ## Steps in key-wait -/

/-- Settles O10: the step is `State.keyWaitStep` on the state after the tick and the poll. -/
theorem keyWaitStepSuspendsExecution : Obligations.KeyWaitStepSuspendsExecution := by
  intro s hf hk
  have hstep : step s = .next s.begun.keyWaitStep := (step_of_noFault hf).trans (stepLive_of_keyWait hk)
  refine ⟨s.begun.keyWaitStep, hstep, ?_, ?_, fun hkeys => ?_, fun hkeys => ?_⟩
  · rw [State.keyWaitStep_eq]
  · rw [State.keyWaitStep_eq]
    rfl
  · rw [State.keyWaitStep_of_no_key hkeys, State.begun_eq, hkeys]
  · rw [State.keyWaitStep_of_key hkeys]

/-- Settles O11: a snapshot with a key down is not 0, and `lowestSet_spec` names the key. -/
theorem keyWaitResolvesToTheLowestKey : Obligations.KeyWaitResolvesToTheLowestKey := by
  intro s k hf hk hdown hmin
  have hkeys : s.begun.keys ≠ 0#16 := fun h0 => by
    rw [State.begun_keys] at h0
    simp [h0] at hdown
  have hlowest : lowestSet s.begun.keys = k := lowestSet_spec hdown hmin
  have hstep : step s = .next s.begun.keyWaitStep := (step_of_noFault hf).trans (stepLive_of_keyWait hk)
  rw [State.keyWaitStep_of_key hkeys, hlowest] at hstep
  refine ⟨_, hstep, fun q => State.setV_getV s.begun _ _ q, BitVec.lt_of_getLsbD hdown, ?_⟩
  rw [State.begun_eq]
  rfl

/-! ## A step that fetches -/

/-- Settles O8: the fault is raised on the state after the tick and the poll. -/
theorem fetchOutsideMemoryFaults : Obligations.FetchOutsideMemoryFaults := by
  intro s hf hk hpc
  have hstep : step s = .next (s.begun.raise .outOfBoundsAccess) :=
    (step_of_noFault hf).trans (stepLive_of_fetch_fault hk hpc)
  refine ⟨_, hstep, ?_⟩
  rw [State.raise_of_noFault (s := s.begun) hf, State.begun_eq]

/-- The answer of a step that fetched, as one condition (40_step_cycle R98). -/
theorem State.finish_eq (t : State) :
    t.finish = { t with contin := decide (t.fault = none ∧ t.stop = false ∧ t.pc.toNat < 4096) } := by
  have hanswer : t.finish.contin = decide (t.fault = none ∧ t.stop = false ∧ t.pc.toNat < 4096) := by
    rw [State.finish_contin, Bool.eq_iff_iff]
    simp [and_assoc]
  rw [← hanswer]
  rfl

/-- Settles O7: the decoder answers a well-formed instruction, which the step executes after the tick, the poll and the
advance. -/
theorem stepExecutesTheFetchedInstruction : Obligations.StepExecutesTheFetchedInstruction := by
  intro s i hf hk hpc hdecode
  injection hdecode with hdecode
  obtain ⟨rfl, -⟩ := Prod.mk.inj hdecode
  obtain ⟨hwf, -⟩ := decodeWord_standsFor (wordOfBytes (s.readMem s.pc.toNat) (s.readMem (s.pc.toNat + 1)))
  refine ⟨hwf, fun hc => Config.pcValue_toNat hc (by omega), ?_, fun t => congrArg _ t.finish_eq⟩
  rw [step_of_nextInstr (State.nextInstr_of_fetches hf hk hpc), State.begun_eq]
  rfl

/-- Settles O14: the step's next state is a finished one. -/
theorem continueAfterAFetch : Obligations.ContinueAfterAFetch := by
  intro s t i hi h
  rw [step_of_nextInstr hi] at h
  obtain ⟨u, -, rfl⟩ := finishResult_next h
  rw [State.finish_eq]
  simp [and_comm, and_assoc]

/-! ## Totality -/

/-- No instruction stops the model: a fault is a next state (log 1). -/
theorem exec_answers (i : Instr) (s : State) : ∃ t, exec i s = .next t := by
  cases i with
  | subn x y =>
    change ∃ t, execSubn x y s = .next t
    unfold execSubn
    split <;> exact ⟨_, rfl⟩
  | skp x =>
    change ∃ t, execSkp x s = .next t
    unfold execSkp
    split <;> exact ⟨_, rfl⟩
  | sknp x =>
    change ∃ t, execSknp x s = .next t
    unfold execSknp
    split <;> exact ⟨_, rfl⟩
  | _ => exact ⟨_, rfl⟩

/-- A live step answers a next state in each of its forms. -/
theorem stepLive_answers (s : State) : ∃ t, stepLive s = .next t := by
  by_cases hk : s.kwPending = true
  · exact ⟨_, stepLive_of_keyWait hk⟩
  have hk : s.kwPending = false := Bool.eq_false_iff.mpr hk
  by_cases hpc : s.pc.toNat < 4095
  · obtain ⟨u, hu⟩ := exec_answers (decodeWord (wordOfBytes (s.readMem s.pc.toNat) (s.readMem (s.pc.toNat + 1)))) s.advance
    exact ⟨u.finish, by rw [stepLive_of_fetch hk hpc, hu]; rfl⟩
  · exact ⟨_, stepLive_of_fetch_fault hk (Nat.le_of_not_lt hpc)⟩

/-- Settles O16: frozen while faulted, else by `stepLive_answers`. -/
theorem everyStepAnswersANextState : Obligations.EveryStepAnswersANextState := by
  intro s
  by_cases hf : s.fault = none
  · rw [step_of_noFault hf]
    exact stepLive_answers s.begun
  · exact ⟨_, step_of_fault hf⟩

end Sys2Proof.Machine

/-! # What no instruction reads (00_scope R10, 40_step_cycle R98, R101): `STOP` and the two outputs -/

namespace Sys2Proof.Machine

/-- The state as an instruction may take it instead: `STOP` set if `stop`, `continue` at 0, and `draw_strobe` at 0 unless
`strobe`. -/
def State.mask (stop strobe : Bool) (s : State) : State :=
  { s with stop := s.stop || stop, contin := false, drawStrobe := s.drawStrobe && strobe }

/-- The result with its next state masked. -/
def resultMask (stop strobe : Bool) : Result → Result
  | .next t => .next (t.mask stop strobe)
  | .fault r => .fault r
  | .refused r => .refused r

section
variable (a b : Bool) (s : State)

@[simp] theorem State.mask_cfg : (s.mask a b).cfg = s.cfg := rfl
@[simp] theorem State.mask_fetchAddr : (s.mask a b).fetchAddr = s.fetchAddr := rfl
@[simp] theorem State.mask_keyIndex (x : Nibble) : (s.mask a b).keyIndex x = s.keyIndex x := rfl

/-! ## Shared operations -/

theorem State.mask_skipIf (c : Bool) : (s.mask a b).skipIf c = (s.skipIf c).mask a b := by
  cases c <;> rfl

theorem State.mask_undefinedEF : (s.mask a b).undefinedEF = s.undefinedEF.mask a b := by
  rw [State.undefinedEF, State.undefinedEF, State.mask_cfg]
  cases s.cfg.reservedEf <;> rfl

theorem State.mask_pushAndJump (ret target : Word) :
    (s.mask a b).pushAndJump ret target = (s.pushAndJump ret target).mask a b := by
  rw [State.pushAndJump, State.pushAndJump, apply_ite (State.mask a b)]
  rfl

theorem State.mask_popAndJump : (s.mask a b).popAndJump = s.popAndJump.mask a b := by
  rcases s.stack.eq_nil_or_concat' with h | ⟨rest, _, h⟩
  · rw [State.popAndJump_of_empty h, State.popAndJump_of_empty (s := s.mask a b) h]
    rfl
  · rw [State.popAndJump_of_append h, State.popAndJump_of_append (s := s.mask a b) h]
    rfl

theorem State.mask_writeResultFlag (x : Nibble) (r f : Byte) :
    (s.mask a b).writeResultFlag x r f = (s.writeResultFlag x r f).mask a b := by
  rw [State.writeResultFlag, State.writeResultFlag, State.mask_cfg]
  cases s.cfg.flagOrder <;> rfl

theorem State.mask_storeBytes (bs : List Byte) (k : Nat) :
    State.storeBytes bs k (s.mask a b) = (State.storeBytes bs k s).mask a b := by
  induction bs generalizing k s with
  | nil => rfl
  | cons d bs ih =>
    rw [State.storeBytes, State.storeBytes, apply_ite (State.mask a b), ← ih]
    rfl

theorem State.mask_loadRegs (k r m : Nat) :
    State.loadRegs k r m (s.mask a b) = (State.loadRegs k r m s).mask a b := by
  induction k generalizing r m s with
  | zero => rfl
  | succ k ih =>
    rw [State.loadRegs, State.loadRegs, apply_ite (State.mask a b), ← ih]
    rfl

/-! ## Instructions -/

theorem execJp_mask (nnn : Addr12) : execJp nnn (s.mask a b) = resultMask a b (execJp nnn s) := by
  rw [execJp, execJp, resultMask, apply_ite (State.mask a b)]
  rfl

theorem execSubn_mask (x y : Nibble) : execSubn x y (s.mask a b) = resultMask a b (execSubn x y s) := by
  rw [execSubn, execSubn, State.mask_cfg]
  cases s.cfg.subnVf with
  | unchanged => rfl
  | notBorrow => exact congrArg _ (State.mask_writeResultFlag a b s _ _ _)

theorem execSkp_mask (x : Nibble) : execSkp x (s.mask a b) = resultMask a b (execSkp x s) := by
  rw [execSkp, execSkp, State.mask_keyIndex]
  cases s.keyIndex x with
  | none => rfl
  | some _ => exact congrArg _ (State.mask_skipIf a b s _)

theorem execSknp_mask (x : Nibble) : execSknp x (s.mask a b) = resultMask a b (execSknp x s) := by
  rw [execSknp, execSknp, State.mask_keyIndex]
  cases s.keyIndex x with
  | none => rfl
  | some _ => exact congrArg _ (State.mask_skipIf a b s _)

/-- No instruction reads `STOP`, `continue` or `draw_strobe`; `Dxyn` alone raises `draw_strobe`, so its mask must keep it. -/
theorem exec_mask {i : Instr} (hdraw : b = true ∨ ∀ x y n, i ≠ .drw x y n) :
    exec i (s.mask a b) = resultMask a b (exec i s) := by
  cases i with
  | cls | jp0 | jpV0 | ldImm | addImm | ldReg | or | and | xor | shr | shl | rnd | ldI | ldVxDt | ldVxK | ldDtVx | ldStVx | addI
  | ldF | reserved8 => rfl
  | drw x y n =>
    obtain rfl : b = true := hdraw.resolve_right fun h => h x y n rfl
    rfl
  | ret => exact congrArg _ (State.mask_popAndJump a b s)
  | jp nnn => exact execJp_mask a b s nnn
  | call => exact congrArg _ (State.mask_pushAndJump a b s _ _)
  | seImm | sneImm | seReg | sneReg => exact congrArg _ (State.mask_skipIf a b s _)
  | addReg | sub => exact congrArg _ (State.mask_writeResultFlag a b s _ _ _)
  | subn x y => exact execSubn_mask a b s x y
  | skp x => exact execSkp_mask a b s x
  | sknp x => exact execSknp_mask a b s x
  | ldB | ldMemVx => exact congrArg _ (State.mask_storeBytes a b s _ _)
  | ldVxMem => exact congrArg _ (State.mask_loadRegs a b s _ _ _)
  | reservedE | reservedF => exact congrArg _ (State.mask_undefinedEF a b s)

end

/-! ## The same, unmasked -/

/-- Where the step has put `draw_strobe` at 0, an execution raises it exactly if it is a draw (40_step_cycle R101): every
other instruction answers alike whether its mask clears `draw_strobe` or not. -/
theorem exec_drawStrobe {i : Instr} {s t : State} (h : exec i s = .next t) (hs : s.drawStrobe = false) :
    t.drawStrobe = true ↔ ∃ x y n, i = .drw x y n := by
  by_cases hdraw : ∃ x y n, i = .drw x y n
  · obtain ⟨x, y, n, rfl⟩ := hdraw
    injection h with h
    simp [← h]
  · have hother : ∀ x y n, i ≠ .drw x y n := fun x y n hi => hdraw ⟨x, y, n, hi⟩
    have hsame : s.mask false false = s.mask false true := by simp [State.mask, hs]
    have hmask (b : Bool) : exec i (s.mask false b) = .next (t.mask false b) := by
      rw [exec_mask false b s (Or.inr hother), h]
      rfl
    have hanswer : Host.Outcome.next (t.mask false false) = (.next (t.mask false true) : Result) := by
      rw [← hmask, ← hmask, hsame]
    have hcleared : t.drawStrobe = false := by
      injection hanswer with hanswer
      simpa [State.mask] using (congrArg State.drawStrobe hanswer).symm
    simp [hcleared, hdraw]

section
variable {s : State} {i : Instr}

/-- The finished state of a masked execution: `STOP` set and `continue` 0 if the mask sets `STOP` (40_step_cycle R98). -/
theorem finishResult_exec_mask {u : State} (a : Bool) (h : exec i s = .next u) :
    finishResult (exec i (s.mask a true)) =
      .next { u.finish with stop := u.stop || a, contin := u.finish.contin && !a } := by
  rw [exec_mask a true s (Or.inl rfl), h]
  cases a <;> simp [resultMask, finishResult, State.mask, State.finish]

theorem finishResult_exec_mask_false : finishResult (exec i (s.mask false true)) = finishResult (exec i s) := by
  obtain ⟨u, hu⟩ := exec_answers i s
  rw [finishResult_exec_mask false hu, hu]
  simp [finishResult, State.finish]

/-- A finished execution does not depend on the `continue` it began with, for the mask clears that. -/
theorem finishResult_exec_contin (c : Bool) : finishResult (exec i { s with contin := c }) = finishResult (exec i s) := by
  rw [← finishResult_exec_mask_false, ← finishResult_exec_mask_false (s := s)]
  rfl

/-- A stop request before the execution adds `STOP` and clears `continue` (40_step_cycle R99). -/
theorem finishResult_exec_setStop {u : State} (h : exec i s = .next u) :
    finishResult (exec i s.setStop) = .next { u.finish with stop := true, contin := false } := by
  have hmask : s.setStop.mask false true = s.mask true true := by simp [State.mask]
  rw [← finishResult_exec_mask_false, hmask, finishResult_exec_mask true h]
  simp

end

end Sys2Proof.Machine

/-! # What every step does to the timers, `KEYS`, `draw_strobe` and a stop request (40_step_cycle R91, R92, R99, R101) -/

namespace Sys2Proof.Machine

/-- A live step executes no instruction and does the tick and the poll at least, or it executes one and is finished. -/
theorem step_live_cases {s t : State} (hf : s.fault = none) (h : step s = .next t) :
    (s.nextInstr = none ∧ t.dt = decr s.dt ∧ t.st = decr s.st ∧ t.keys = s.nextInput.keys ∧ t.drawStrobe = false) ∨
    ∃ i u, s.nextInstr = some i ∧ exec i s.begun.advance = .next u ∧ t = u.finish := by
  obtain ⟨hne, -⟩ | ⟨-, hk, rfl⟩ | ⟨-, -, hpc, rfl⟩ | ⟨i, u, -, -, -, hi, hu, ht⟩ := step_cases h
  · exact absurd hf hne
  · rw [State.keyWaitStep_eq]
    exact Or.inl ⟨if_neg (fun hn => by simp [hk] at hn), rfl, rfl, rfl, rfl⟩
  · exact Or.inl ⟨if_neg (fun hn => by omega), rfl, rfl, rfl, rfl⟩
  · exact Or.inr ⟨i, u, hi, hu, ht⟩

theorem decr_toNat (b : Byte) : (decr b).toNat = b.toNat - 1 := by
  have hb := b.isLt
  rw [decr_eq, BitVec.toNat_ofNat, Nat.mod_eq_of_lt (by omega)]

/-- Settles O12: of the instructions, which execute after the tick, only the timer's own writer changes it (`exec_dt_changed`,
`exec_st_changed`). -/
theorem timersTickInEveryLiveStep : Obligations.TimersTickInEveryLiveStep := by
  intro s t hf h
  obtain ⟨hnone, hdt, hst, -, -⟩ | ⟨i, u, hi, hu, rfl⟩ := step_live_cases hf h
  · rw [hnone, hdt, hst, decr_toNat, decr_toNat]
    exact ⟨fun _ => rfl, fun _ => rfl, nofun, nofun, nofun⟩
  · rw [hi]
    refine ⟨fun hother => ?_, fun hother => ?_, fun x hx => ?_, fun x hx => ?_, fun x hx => ?_⟩
    · have hdt : u.dt = decr s.dt :=
        not_not.mp (mt (exec_dt_changed hu) fun ⟨x, hx⟩ => hother x (congrArg some hx))
      rw [State.finish_dt, hdt, decr_toNat]
    · have hst : u.st = decr s.st :=
        not_not.mp (mt (exec_st_changed hu) fun ⟨x, hx⟩ => hother x (congrArg some hx))
      rw [State.finish_st, hst, decr_toNat]
    · obtain rfl : i = .ldDtVx x := Option.some.inj hx
      injection hu with hu
      simp [← hu]
    · obtain rfl : i = .ldStVx x := Option.some.inj hx
      injection hu with hu
      simp [← hu]
    · obtain rfl : i = .ldVxDt x := Option.some.inj hx
      injection hu with hu
      simp [← hu, decr_toNat]

/-- Settles O13: no instruction writes the snapshot (`exec_keeps_inputs`). -/
theorem keysHoldTheStepsSnapshot : Obligations.KeysHoldTheStepsSnapshot := by
  intro s t hf h
  obtain ⟨-, -, -, hkeys, -⟩ | ⟨i, u, -, hu, rfl⟩ := step_live_cases hf h
  · exact hkeys
  · obtain ⟨hkeys, -⟩ := exec_keeps_inputs hu
    exact hkeys

/-- Settles O15: a frozen step and one that executes nothing leave `draw_strobe` at 0, and `exec_drawStrobe` covers the
others. -/
theorem drawStrobeMarksExactlyTheDraws : Obligations.DrawStrobeMarksExactlyTheDraws := by
  intro s t h
  by_cases hf : s.fault = none
  · obtain ⟨hnone, -, -, -, hstrobe⟩ | ⟨i, u, hi, hu, rfl⟩ := step_live_cases hf h
    · simp [hnone, hstrobe]
    · simpa [hi] using exec_drawStrobe hu rfl
  · rw [step_of_fault hf] at h
    injection h with h
    have hnone : s.nextInstr = none := if_neg fun hn => hf hn.1
    simp [← h, hnone]

/-! ## A stop request -/

theorem State.keyWaitStep_setStop (s : State) : s.setStop.keyWaitStep = s.keyWaitStep.setStop := by
  rw [State.keyWaitStep, State.keyWaitStep, apply_ite State.setStop]
  rfl

/-- Settles O26: in each form of the step the request reaches `STOP` and `continue` alone, and in key-wait `STOP` alone. -/
theorem requestStopOnlyChangesTheAnswer : Obligations.RequestStopOnlyChangesTheAnswer := by
  intro s t h
  refine ⟨rfl, ?_⟩
  obtain ⟨hf, rfl⟩ | ⟨hf, hk, rfl⟩ | ⟨hf, hk, hpc, rfl⟩ | ⟨i, u, hf, hk, -, hi, hu, rfl⟩ := step_cases h
  · exact ⟨_, step_of_fault (s := s.requestStop) hf, rfl, fun h0 => absurd h0 hf, fun _ => rfl⟩
  · have hstep : step s.requestStop = .next s.begun.keyWaitStep.setStop := by
      rw [← State.keyWaitStep_setStop]
      exact (step_of_noFault (s := s.requestStop) hf).trans (stepLive_of_keyWait hk)
    refine ⟨_, hstep, rfl, fun _ _ => ?_, fun hor => by simp [hf, hk] at hor⟩
    rw [State.setStop_contin, State.keyWaitStep_eq]
  · have hstep : step s.requestStop = .next (s.requestStop.begun.raise .outOfBoundsAccess) :=
      (step_of_noFault (s := s.requestStop) hf).trans (stepLive_of_fetch_fault hk hpc)
    exact ⟨_, hstep, rfl, fun _ h1 => by simp [hk] at h1, fun _ => rfl⟩
  · have hstep : step s.requestStop = .next { u.finish with stop := true, contin := false } :=
      (step_of_nextInstr (s := s.requestStop) hi).trans (finishResult_exec_setStop hu)
    exact ⟨_, hstep, rfl, fun _ h1 => by simp [hk] at h1, fun _ => rfl⟩

end Sys2Proof.Machine

/-! # Runs (40_step_cycle R100) -/

namespace Sys2Proof.Machine

theorem stepLive_contin (s : State) (c : Bool) : stepLive { s with contin := c } = stepLive s := by
  by_cases hk : s.kwPending = true
  · rw [stepLive_of_keyWait hk, stepLive_of_keyWait (s := { s with contin := c }) hk]
    rfl
  have hk : s.kwPending = false := Bool.eq_false_iff.mpr hk
  by_cases hpc : s.pc.toNat < 4095
  · rw [stepLive_of_fetch hk hpc, stepLive_of_fetch (s := { s with contin := c }) hk hpc]
    exact finishResult_exec_contin (s := s.advance) c
  · have hpc := Nat.le_of_not_lt hpc
    rw [stepLive_of_fetch_fault hk hpc, stepLive_of_fetch_fault (s := { s with contin := c }) hk hpc]
    rfl

/-- A step depends on no output of the step before. -/
theorem stepWith_outputs (inp : StepInput) (s : State) (c d : Bool) :
    stepWith inp { s with contin := c, drawStrobe := d } = stepWith inp s := by
  by_cases hf : s.fault = none
  · rw [stepWith_of_noFault hf, stepWith_of_noFault (s := { s with contin := c, drawStrobe := d }) hf]
    exact stepLive_contin (s.begin inp) c
  · rw [stepWith_of_fault hf, stepWith_of_fault (s := { s with contin := c, drawStrobe := d }) hf]
    rfl

/-- A live step that answers `continue` = 0 faults, or finds `STOP` set or `PC` above memory (40_step_cycle R98). -/
theorem stepLive_halts {s t : State} (h : stepLive s = .next t) (hc : t.contin = false) (hf : t.fault = none) :
    t.stop = true ∨ 4096 ≤ t.pc.toNat := by
  by_cases hk : s.kwPending = true
  · rw [stepLive_of_keyWait hk] at h
    injection h with h
    rw [← h, State.keyWaitStep_eq] at hc
    nomatch hc
  have hk : s.kwPending = false := Bool.eq_false_iff.mpr hk
  by_cases hpc : s.pc.toNat < 4095
  · rw [stepLive_of_fetch hk hpc] at h
    obtain ⟨u, -, rfl⟩ := finishResult_next h
    have hzero : ¬ (u.fault = none ∧ u.stop = false ∧ u.pc.toNat < 4096) := by simpa [State.finish_eq] using hc
    by_contra hno
    exact hzero ⟨hf, Bool.eq_false_iff.mpr fun hstop => hno (Or.inl hstop), Nat.lt_of_not_le fun hpc => hno (Or.inr hpc)⟩
  · rw [stepLive_of_fetch_fault hk (Nat.le_of_not_lt hpc)] at h
    injection h with h
    simp [← h] at hf

theorem stepWith_halts {inp : StepInput} {s t : State} (h : stepWith inp s = .next t) (hc : t.contin = false)
    (hf : t.fault = none) : t.stop = true ∨ 4096 ≤ t.pc.toNat := by
  by_cases hs : s.fault = none
  · rw [stepWith_of_noFault hs] at h
    exact stepLive_halts h hc hf
  · rw [stepWith_of_fault hs] at h
    injection h with h
    rw [← h] at hf
    exact absurd hf hs

theorem Run.ended_eq_true {r : Run} : r.ended = true ↔ 0 < r.steps ∧ (r.state.contin = false ∨ r.state.fault ≠ none) := by
  simp [Run.ended, Option.isSome_iff_ne_none]

theorem Run.ofLoad_steps {image : List Byte} {s : State} {r : Run} (h : Run.ofLoad image s = some r) : r.steps = 0 := by
  unfold Run.ofLoad at h
  split at h
  · injection h with h
    rw [← h]
  · nomatch h
  · nomatch h

/-- The event that ends a run is a step: a stop request leaves the outputs as they were. -/
theorem Run.next_ended {q r : Run} {e : HostEvent} (h : q.next e = some r) (hr : r.ended = true) :
    ∃ inp, stepWith inp q.state = .next r.state := by
  obtain ⟨hq, hstate⟩ := Run.next_some h
  cases e with
  | step inp => exact ⟨inp, hstate⟩
  | load image => simp [Run.next] at h
  | requestStop =>
    rw [Run.next, hq] at h
    injection h with h
    have hsame : r.ended = q.ended := by rw [← h]; rfl
    simp [hsame, hq] at hr

theorem State.runAfter_nil_steps {s : State} {image : List Byte} {r : Run} (h : s.runAfter image [] = some r) : r.steps = 0 := by
  obtain ⟨q, hq, hr⟩ := Option.bind_eq_some_iff.mp h
  obtain rfl : q = r := Option.some.inj hr
  exact Run.ofLoad_steps hq

theorem State.runAfter_concat {s : State} {image : List Byte} {es : List HostEvent} {e : HostEvent} {r : Run}
    (h : s.runAfter image (es ++ [e]) = some r) : ∃ q, s.runAfter image es = some q ∧ q.next e = some r :=
  Option.bind_eq_some_iff.mp (State.runAfter_append s image es e ▸ h)

theorem Run.ended_of_no_steps {r : Run} (h : r.steps = 0) : r.ended = false := by
  simp [Run.ended, h]

/-- What an ended run has ended in (40_step_cycle R98, R100). -/
theorem State.runAfter_ended {s : State} {image : List Byte} {es : List HostEvent} {r : Run}
    (h : s.runAfter image es = some r) (hr : r.ended = true) (hf : r.state.fault = none) :
    r.state.stop = true ∨ 4096 ≤ r.state.pc.toNat := by
  obtain rfl | ⟨es, e, rfl⟩ := es.eq_nil_or_concat'
  · simp [Run.ended_of_no_steps (State.runAfter_nil_steps h)] at hr
  · obtain ⟨q, -, hnext⟩ := State.runAfter_concat h
    obtain ⟨inp, hstep⟩ := Run.next_ended hnext hr
    obtain ⟨-, hc⟩ := Run.ended_eq_true.mp hr
    exact stepWith_halts hstep (hc.resolve_right (not_not_intro hf)) hf

/-- Settles O27: a run begins with no step taken, the event that ends it is a step, and `stepWith_halts` says why that one
answered 0. -/
theorem aRunEndsWithItsFirstZeroOrFault : Obligations.ARunEndsWithItsFirstZeroOrFault := by
  refine ⟨fun s image r h => ?_, fun s image es e r h => ?_, fun s image es r h hr => ?_, fun s inp => stepWith_outputs inp s⟩
  · have hsteps := State.runAfter_nil_steps h
    exact ⟨Run.ended_of_no_steps hsteps, hsteps⟩
  · obtain ⟨q, hq, hnext⟩ := State.runAfter_concat h
    exact ⟨q, hq, Run.next_some hnext⟩
  · obtain ⟨hsteps, -⟩ := Run.ended_eq_true.mp hr
    by_cases hf : r.state.fault = none
    · exact ⟨hsteps, Or.inr ⟨⟨hr, hf⟩, State.runAfter_ended h hr hf⟩⟩
    · exact ⟨hsteps, Or.inl ⟨hr, hf⟩⟩

end Sys2Proof.Machine

/-! # Control flow (41_control_flow): what each instruction of the family does -/

namespace Sys2Proof.Machine

/-! ## Jumps (R111, R113, R115) -/

theorem zextAddr_toNat (nnn : Addr12) : (zextAddr nnn).toNat = nnn.toNat := ((zextAddr_eq_iff nnn _).mp rfl).symm

/-- The fetch address lies 2 below `PC` (40_step_cycle R95); a subtraction that wraps leaves the range of `nnn`. -/
theorem zextAddr_eq_fetchAddr_iff (nnn : Addr12) (s : State) :
    zextAddr nnn = s.fetchAddr ↔ nnn.toNat + 2 = s.pc.toNat := by
  have hnnn := nnn.isLt
  have hpc := s.pc.isLt
  rw [zextAddr_eq_iff, State.fetchAddr, BitVec.toNat_sub, BitVec.toNat_ofNat]
  omega

theorem execJp_eq (nnn : Addr12) (s : State) :
    execJp nnn s = .next { s with pc := zextAddr nnn, stop := s.stop || decide (nnn.toNat + 2 = s.pc.toNat) } := by
  by_cases hself : zextAddr nnn = s.fetchAddr
  · rw [execJp, if_pos hself, decide_eq_true ((zextAddr_eq_fetchAddr_iff nnn s).mp hself), Bool.or_true]
    rfl
  · rw [execJp, if_neg hself, decide_eq_false (mt (zextAddr_eq_fetchAddr_iff nnn s).mpr hself), Bool.or_false]
    rfl

/-- Settles O36: both write `PC` alone, the offset jump by `State.offsetTarget_toNat` without reduction. -/
theorem rawAndOffsetJumpsSetPc : Obligations.RawAndOffsetJumpsSetPc := by
  intro s nnn
  have hoffset (hc : 13 ≤ s.cfg.pcWidth) := State.offsetTarget_toNat hc nnn
  exact ⟨⟨s.setPc (zextAddr nnn), rfl, rfl, zextAddr_toNat nnn⟩, ⟨s.setPc (s.offsetTarget nnn), rfl, rfl, rfl, hoffset⟩⟩

/-- Settles O37: by `execJp_eq`, the test of the fetch address being one of `nnn + 2` against `PC`. -/
theorem jumpToItselfSetsStop : Obligations.JumpToItselfSetsStop := by
  intro s nnn
  refine ⟨_, execJp_eq nnn s, rfl, zextAddr_toNat nnn, fun hself => ?_, fun hother => ?_⟩
  · simp [hself]
  · simp [hother]

/-! ## Call and return (R112, R114) -/

section
variable {s : State} (nnn : Addr12)

theorem execCall_of_lt (h : s.sp < s.cfg.stackDepth) :
    execCall nnn s = .next { s with stack := s.stack ++ [s.pc], pc := zextAddr nnn } :=
  congrArg _ (State.pushAndJump_of_lt h s.pc (zextAddr nnn))

theorem execCall_of_full (h : s.cfg.stackDepth ≤ s.sp) : execCall nnn s = .next (s.raise .stackOverflow) :=
  congrArg _ (State.pushAndJump_of_full h s.pc (zextAddr nnn))

theorem execRet_of_append {older : List Word} {w : Word} (h : s.stack = older ++ [w]) :
    execRet s = .next { s with stack := older, pc := w } :=
  congrArg _ (State.popAndJump_of_append h)

theorem execRet_of_empty (h : s.stack = []) : execRet s = .next (s.raise .stackUnderflow) :=
  congrArg _ (State.popAndJump_of_empty h)

end

/-- Settles O38: the push where there is room, the fault raised at once where there is none. -/
theorem callPushesTheReturnAddress : Obligations.CallPushesTheReturnAddress := by
  intro s nnn
  refine ⟨fun hroom => ?_, fun hf hfull => raisesAtOnce_of_raise hf (execCall_of_full nnn (Nat.le_of_eq hfull.symm))⟩
  exact ⟨_, execCall_of_lt nnn hroom, rfl, zextAddr_toNat nnn, List.length_append⟩

/-- Settles O39: the pop where an entry is held, the fault raised at once where none is. -/
theorem returnPopsTheNewestEntry : Obligations.ReturnPopsTheNewestEntry := fun _ =>
  ⟨fun _ _ h => execRet_of_append h,
    fun hf hempty => raisesAtOnce_of_raise hf (execRet_of_empty (List.eq_nil_of_length_eq_zero hempty))⟩

/-- Settles O40: the call leaves its return address as the newest entry, and the return pops that one. -/
theorem returnUndoesCall : Obligations.ReturnUndoesCall := by
  intro s t u nnn hroom hcall hstack
  have hpushed : t.stack = s.stack ++ [s.pc] := by
    injection (execCall_of_lt nnn hroom).symm.trans hcall with ht
    rw [← ht]
  exact execRet_of_append (hstack.trans hpushed)

/-! ## Skips (R110, R116 to R119) -/

/-- An instruction whose meaning is the skip on a test adds 2 to `PC` exactly when what it tests holds. -/
theorem skipsWhen_of_skipIf {i : Instr} {s : State} {b : Bool} {cond : Prop} (h : exec i s = .next (s.skipIf b))
    (hb : b = true ↔ cond) : SkipsWhen i s cond := by
  have hpc : (s.skipIf b).pc = if b = true then s.pcPlus2 else s.pc := congrArg State.pc (s.skipIf_eq b)
  rw [SkipsWhen, ← hb]
  refine ⟨_, h, s.skipIf_eq b ▸ rfl, fun htaken => ?_, fun htaken hc hle => ?_, fun hnot => ?_⟩
  · rw [hpc, if_pos htaken]
    rfl
  · rw [hpc, if_pos htaken, State.pcPlus2_toNat hc hle]
  · rw [hpc, if_neg hnot]

/-- Settles O41: each of the four is the skip on a test of equality or its negation. -/
theorem skipsTestTheirOperands : Obligations.SkipsTestTheirOperands := fun _ _ _ _ _ =>
  ⟨skipsWhen_of_skipIf rfl beq_iff_eq, skipsWhen_of_skipIf rfl bne_iff_ne, skipsWhen_of_skipIf rfl beq_iff_eq,
    skipsWhen_of_skipIf rfl bne_iff_ne⟩

end Sys2Proof.Machine

/-! # The value of `PC` after each instruction (41_control_flow R120) -/

namespace Sys2Proof.Machine

/-- The row of 41_control_flow R120 for the instruction: what `t`, the state after it, holds in `PC`. -/
def State.PcAfter (s t : State) : Instr → Prop
  | .jp0 nnn | .jp nnn | .call nnn => t.pc = zextAddr nnn
  | .jpV0 nnn => t.pc = s.offsetTarget nnn
  | .ret => s.stack.getLast? = some t.pc
  | .seImm _ _ | .sneImm _ _ | .seReg _ _ _ | .sneReg _ _ _ | .skp _ | .sknp _ => t.pc = s.pcPlus2 ∨ t.pc = s.pc
  | _ => t.pc = s.pc

/-! ## Shared operations -/

section
variable (s : State)

theorem State.raise_faulted (f : FaultCode) : (s.raise f).fault ≠ none := by
  cases h : s.fault <;> simp [h]

theorem State.skipIf_pc (b : Bool) : (s.skipIf b).pc = s.pcPlus2 ∨ (s.skipIf b).pc = s.pc := by
  cases b with
  | true => exact Or.inl rfl
  | false => exact Or.inr rfl

@[simp] theorem State.undefinedEF_pc : s.undefinedEF.pc = s.pc := by
  unfold State.undefinedEF
  split <;> rfl

@[simp] theorem State.writeResultFlag_pc (x : Nibble) (r f : Byte) : (s.writeResultFlag x r f).pc = s.pc :=
  (congrArg State.pc (s.writeResultFlag_eq x r f) :)

@[simp] theorem State.storeBytes_pc (bs : List Byte) (a : Nat) : (State.storeBytes bs a s).pc = s.pc := by
  rw [State.storeBytes_eq]
  split <;> rfl

@[simp] theorem State.loadRegs_pc (k r a : Nat) : (State.loadRegs k r a s).pc = s.pc := by
  rw [State.loadRegs_eq]
  split <;> rfl

end

/-! ## The key skips by the key that `Vx` names (45_timers_keypad R183, R184) -/

section
variable {s : State}

theorem execSkp_of_key {x : Nibble} {k : Nat} (h : s.keyIndex x = some k) :
    execSkp x s = .next (s.skipIf (s.keys.getLsbD k)) := by
  rw [execSkp, h]

theorem execSkp_of_no_key {x : Nibble} (h : s.keyIndex x = none) : execSkp x s = .next (s.raise .outOfBoundsAccess) := by
  rw [execSkp, h]

theorem execSknp_of_key {x : Nibble} {k : Nat} (h : s.keyIndex x = some k) :
    execSknp x s = .next (s.skipIf (!s.keys.getLsbD k)) := by
  rw [execSknp, h]

theorem execSknp_of_no_key {x : Nibble} (h : s.keyIndex x = none) : execSknp x s = .next (s.raise .outOfBoundsAccess) := by
  rw [execSknp, h]

end

/-! ## Instructions -/

/-- Where `i` raises nothing, it leaves the `PC` that its row of R120 names. -/
def LeavesPc (i : Instr) (s : State) : Prop := MeetsOnNext (fun t => t.fault = none → s.PcAfter t i) (exec i s)

section
variable {i : Instr} {s : State}

theorem leavesPc_of_next {t : State} (h : exec i s = .next t) (hpc : s.PcAfter t i) : LeavesPc i s := by
  rw [LeavesPc, h]
  exact meetsOnNext_next fun _ => hpc

theorem leavesPc_of_raise {f : FaultCode} (h : exec i s = .next (s.raise f)) : LeavesPc i s := by
  rw [LeavesPc, h]
  exact meetsOnNext_next fun hf => absurd hf (s.raise_faulted f)

end

section
variable (s : State)

theorem ret_leaves_pc : LeavesPc .ret s := by
  rcases s.stack.eq_nil_or_concat' with hnil | ⟨older, w, hstack⟩
  · exact leavesPc_of_raise (execRet_of_empty hnil)
  · exact leavesPc_of_next (execRet_of_append hstack) (by rw [State.PcAfter, hstack, List.getLast?_concat])

theorem call_leaves_pc (nnn : Addr12) : LeavesPc (.call nnn) s := by
  by_cases hroom : s.sp < s.cfg.stackDepth
  · exact leavesPc_of_next (execCall_of_lt nnn hroom) rfl
  · exact leavesPc_of_raise (execCall_of_full nnn (Nat.le_of_not_lt hroom))

theorem subn_leaves_pc (x y : Nibble) : LeavesPc (.subn x y) s := by
  change MeetsOnNext _ (execSubn x y s)
  unfold execSubn
  split
  · exact meetsOnNext_next fun _ => rfl
  · exact meetsOnNext_next fun _ => s.writeResultFlag_pc _ _ _

theorem skp_leaves_pc (x : Nibble) : LeavesPc (.skp x) s := by
  cases hkey : s.keyIndex x with
  | none => exact leavesPc_of_raise (execSkp_of_no_key hkey)
  | some k => exact leavesPc_of_next (execSkp_of_key hkey) (s.skipIf_pc _)

theorem sknp_leaves_pc (x : Nibble) : LeavesPc (.sknp x) s := by
  cases hkey : s.keyIndex x with
  | none => exact leavesPc_of_raise (execSknp_of_no_key hkey)
  | some k => exact leavesPc_of_next (execSknp_of_key hkey) (s.skipIf_pc _)

/-- Every instruction leaves the `PC` of its row (41_control_flow R120). -/
theorem exec_leaves_pc (i : Instr) : LeavesPc i s := by
  cases i with
  | cls | jp0 | jpV0 | ldImm | addImm | ldReg | or | and | xor | shr | shl | rnd | ldVxDt | ldI | addI | ldF | drw | ldVxK
  | ldDtVx | ldStVx | reserved8 => exact leavesPc_of_next rfl rfl
  | ret => exact ret_leaves_pc s
  | jp nnn => exact leavesPc_of_next (execJp_eq nnn s) rfl
  | call nnn => exact call_leaves_pc s nnn
  | seImm | sneImm | seReg | sneReg => exact leavesPc_of_next rfl (s.skipIf_pc _)
  | addReg | sub => exact leavesPc_of_next rfl (s.writeResultFlag_pc _ _ _)
  | subn x y => exact subn_leaves_pc s x y
  | skp x => exact skp_leaves_pc s x
  | sknp x => exact sknp_leaves_pc s x
  | ldB | ldMemVx => exact leavesPc_of_next rfl (s.storeBytes_pc _ _)
  | ldVxMem => exact leavesPc_of_next rfl (s.loadRegs_pc _ _ _)
  | reservedE | reservedF => exact leavesPc_of_next rfl s.undefinedEF_pc

end

/-- Settles O42: the instruction's row of R120, read as numbers at a width that holds them. -/
theorem pcAfterEachInstruction : Obligations.PcAfterEachInstruction := by
  intro i s t hc hpc _ h hf
  have hrow : s.PcAfter t i := exec_leaves_pc s i t h hf
  refine ⟨fun nnn hi => ?_, fun nnn hi => ?_, fun hi => ?_, fun x y n kk hi => ?_, fun hjump hret hskip => ?_⟩
  · have htarget : t.pc = zextAddr nnn := by obtain rfl | rfl | rfl := hi <;> exact hrow
    rw [htarget, zextAddr_toNat]
  · obtain rfl := hi
    exact (congrArg BitVec.toNat hrow).trans (State.offsetTarget_toNat hc nnn)
  · obtain rfl := hi
    exact hrow
  · have hskip : t.pc = s.pcPlus2 ∨ t.pc = s.pc := by obtain rfl | rfl | rfl | rfl | rfl | rfl := hi <;> exact hrow
    exact hskip.imp_left fun htaken => (congrArg BitVec.toNat htaken).trans (State.pcPlus2_toNat hc hpc)
  · cases i with
    | jp0 nnn | jp nnn | call nnn | jpV0 nnn => exact absurd (hjump nnn) (by simp)
    | ret => exact absurd rfl hret
    | seImm x kk | sneImm x kk => exact absurd (hskip x 0 0 kk) (by simp)
    | seReg x y n | sneReg x y n => exact absurd (hskip x y n 0) (by simp)
    | skp x | sknp x => exact absurd (hskip x 0 0 0) (by simp)
    | _ => exact hrow

end Sys2Proof.Machine

/-! # Load-immediate, arithmetic, logic, shift and random instructions (42_alu): what each instruction of the family does -/

namespace Sys2Proof.Machine

/-! ## Bytes as numbers -/

section
variable (p q : Byte)

theorem byte_add_eq_ofNat : p + q = BitVec.ofNat 8 ((p.toNat + q.toNat) % 256) :=
  BitVec.eq_of_toNat_eq (by rw [BitVec.toNat_add, BitVec.toNat_ofNat, Nat.mod_mod])

theorem byte_sub_eq_ofNat : p - q = BitVec.ofNat 8 ((p.toNat + 256 - q.toNat) % 256) := by
  have hq := q.isLt
  refine BitVec.eq_of_toNat_eq ?_
  rw [BitVec.toNat_sub, BitVec.toNat_ofNat, Nat.mod_mod]
  congr 1
  omega

theorem byte_shiftRight_one_eq_ofNat : p >>> 1 = BitVec.ofNat 8 (p.toNat / 2) := by
  have hp := p.isLt
  refine BitVec.eq_of_toNat_eq ?_
  rw [BitVec.toNat_ushiftRight, BitVec.toNat_ofNat, Nat.shiftRight_eq_div_pow]
  omega

theorem byte_shiftLeft_one_eq_ofNat : p <<< 1 = BitVec.ofNat 8 (p.toNat * 2 % 256) :=
  BitVec.eq_of_toNat_eq (by rw [BitVec.toNat_shiftLeft, BitVec.toNat_ofNat, Nat.mod_mod, Nat.shiftLeft_eq])

/-! ## The flags as numbers (R137 to R141) -/

theorem flagByte_decide (c : Prop) [Decidable c] : flagByte (decide c) = if c then 1#8 else 0#8 := by
  by_cases hc : c <;> simp [flagByte, hc]

theorem flagByte_decide_eq_one {n : Nat} (hn : n < 2) : flagByte (decide (n = 1)) = BitVec.ofNat 8 n := by
  interval_cases n <;> rfl

theorem carryFlag_eq_ite : carryFlag p q = if p.toNat + q.toNat > 255 then 1#8 else 0#8 := flagByte_decide _

theorem noBorrowFlag_eq_ite : noBorrowFlag p q = if p.toNat ≥ q.toNat then 1#8 else 0#8 := flagByte_decide _

theorem shiftedOutRight_eq_ofNat : shiftedOutRight p = BitVec.ofNat 8 (p.toNat % 2) := by
  rw [shiftedOutRight, BitVec.getLsbD, Nat.testBit_zero]
  exact flagByte_decide_eq_one (Nat.mod_lt _ (by decide))

theorem shiftedOutLeft_eq_ite : shiftedOutLeft p = if p.toNat ≥ 0x80 then 1#8 else 0#8 := by
  have hbit : p.getLsbD 7 = decide (p.toNat ≥ 0x80) := BitVec.msb_eq_decide p
  rw [shiftedOutLeft, hbit, flagByte_decide]

theorem shiftedOutLeft_eq_ofNat : shiftedOutLeft p = BitVec.ofNat 8 (p.toNat / 128) := by
  have hp := p.isLt
  have hbit : p.toNat ≥ 0x80 ↔ p.toNat / 128 = 1 := by omega
  rw [shiftedOutLeft_eq_ite, ← flagByte_decide, decide_eq_decide.mpr hbit]
  exact flagByte_decide_eq_one (by omega)

/-- `8Fy6` shifts the flag itself, which is 0 or 1 (R139). -/
theorem shiftedOutRight_shiftRight_one : shiftedOutRight p >>> 1 = 0#8 := by
  rw [shiftedOutRight]
  cases p.getLsbD 0 <;> rfl

/-- `8FyE` shifts the flag itself, which is 0 or 1 (R141). -/
theorem shiftedOutLeft_shiftLeft_one : shiftedOutLeft p <<< 1 = if p.toNat ≥ 0x80 then 2#8 else 0#8 := by
  rw [shiftedOutLeft_eq_ite]
  split <;> rfl

end

/-! ## One register and no flag (R130, R131, R133 to R136, R142) -/

theorem writesRegister_of_setV {i : Instr} {s : State} {x : Nibble} {b : Byte} (h : exec i s = .next (s.setV x b)) :
    WritesRegister i s x b := ⟨_, h, rfl, s.setV_getV x b⟩

/-- Settles O30: each of the eight is one write of `Vx`. -/
theorem oneRegisterInstructionsWriteTheirResult : Obligations.OneRegisterInstructionsWriteTheirResult := by
  intro s x y kk
  have hsum : WritesRegister (.addImm x kk) s x (BitVec.ofNat 8 (((s.getV x).toNat + kk.toNat) % 256)) :=
    writesRegister_of_setV (byte_add_eq_ofNat (s.getV x) kk ▸ rfl)
  exact ⟨writesRegister_of_setV rfl, hsum, writesRegister_of_setV rfl, writesRegister_of_setV rfl,
    writesRegister_of_setV rfl, writesRegister_of_setV rfl, writesRegister_of_setV rfl, writesRegister_of_setV rfl⟩

/-! ## A result and a flag (R137, R138, R140) -/

/-- Settles O31: by `State.writeResultFlag_getV`, which reads a register after the two writes in either order. -/
theorem addWritesSumAndCarry : Obligations.AddWritesSumAndCarry := by
  intro s x y
  refine ⟨_, rfl, s.writeResultFlag_eq _ _ _, fun q => ?_⟩
  rw [State.writeResultFlag_getV, carryFlag_eq_ite, byte_add_eq_ofNat]

/-- Settles O32: by `State.writeResultFlag_getV`; the flag compares the values before the subtraction. -/
theorem subtractWritesDifferenceAndNoBorrow : Obligations.SubtractWritesDifferenceAndNoBorrow := by
  intro s x y
  refine ⟨_, rfl, s.writeResultFlag_eq _ _ _, fun q => ?_⟩
  rw [State.writeResultFlag_getV, noBorrowFlag_eq_ite, byte_sub_eq_ofNat]

theorem execSubn_of_unchanged {s : State} (h : s.cfg.subnVf = .unchanged) (x y : Nibble) :
    execSubn x y s = .next (s.setV x (s.getV y - s.getV x)) := by
  rw [execSubn, h]

theorem execSubn_of_notBorrow {s : State} (h : s.cfg.subnVf = .notBorrow) (x y : Nibble) :
    execSubn x y s = .next (s.writeResultFlag x (s.getV y - s.getV x) (noBorrowFlag (s.getV y) (s.getV x))) := by
  rw [execSubn, h]

/-- Settles O33: one write or two, by `SUBN_VF`. -/
theorem reverseSubtractFollowsSubnVf : Obligations.ReverseSubtractFollowsSubnVf := by
  intro s x y
  cases hvf : s.cfg.subnVf with
  | unchanged =>
    refine ⟨_, execSubn_of_unchanged hvf x y, rfl, fun q => ?_⟩
    rw [if_neg (by simp), State.setV_getV, byte_sub_eq_ofNat]
  | notBorrow =>
    refine ⟨_, execSubn_of_notBorrow hvf x y, s.writeResultFlag_eq _ _ _, fun q => ?_⟩
    rw [State.writeResultFlag_getV, noBorrowFlag_eq_ite, byte_sub_eq_ofNat]
    simp only [true_and]

/-! ## Shifts (R139, R141) -/

/-- The flag written first and `Vx` shifted as it then reads: with `x` = 15 it is the flag that is shifted. -/
theorem State.setFlag_setV_getV (s : State) (x : Nibble) (f : Byte) (shift : Byte → Byte) (q : Nibble) :
    ((s.setFlag f).setV x (shift ((s.setFlag f).getV x))).getV q =
      if q = 15#4 then (if x = 15#4 then shift f else f) else if q = x then shift (s.getV x) else s.getV q := by
  rw [State.setV_getV, State.setFlag_getV, State.setFlag_getV]
  by_cases hq : q = 15#4
  · by_cases hx : x = 15#4
    · simp [hq, hx]
    · simp [hq, hx, Ne.symm hx]
  · by_cases hx : q = x
    · simp [← hx, hq]
    · simp [hq, hx]

/-- Settles O34: by `State.setFlag_setV_getV`; with `x` = 15 the flag is shifted out and leaves 0. -/
theorem shiftRightWritesFlagThenShifts : Obligations.ShiftRightWritesFlagThenShifts := by
  intro s x y
  refine ⟨_, rfl, rfl, fun q => (s.setFlag_setV_getV x _ (· >>> 1) q).trans ?_⟩
  rw [shiftedOutRight_shiftRight_one, shiftedOutRight_eq_ofNat, byte_shiftRight_one_eq_ofNat]

/-- Settles O35: by `State.setFlag_setV_getV`; with `x` = 15 the flag is doubled. -/
theorem shiftLeftWritesFlagThenShifts : Obligations.ShiftLeftWritesFlagThenShifts := by
  intro s x y
  refine ⟨_, rfl, rfl, fun q => (s.setFlag_setV_getV x _ (· <<< 1) q).trans ?_⟩
  rw [shiftedOutLeft_shiftLeft_one, shiftedOutLeft_eq_ofNat, byte_shiftLeft_one_eq_ofNat]

/-! ## The sampled byte (R142) -/

/-- Settles O59: by `exec_mapStRnd`; `Fx18`, which that lemma leaves out for its write of `ST`, does not read the byte. -/
theorem randomByteReachesOnlyRnd : Obligations.RandomByteReachesOnlyRnd := by
  intro i s t b hrnd h
  have hcommute : exec i (s.mapStRnd id fun _ => b) = resultMapStRnd id (fun _ => b) (exec i s) := by
    cases i with
    | ldStVx x => rfl
    | _ => exact exec_mapStRnd _ _ s (fun _ => nofun) hrnd
  rw [h] at hcommute
  exact hcommute

end Sys2Proof.Machine

/-! # Address register and memory (43_index_memory): what each instruction of the family does -/

namespace Sys2Proof.Machine

theorem State.ea_zero (s : State) : s.ea 0 = s.i.toNat := rfl

/-! ## Accesses of several bytes that fit, and that do not (20_memory R56) -/

section
variable {s : State} {a : Nat}

theorem State.storeBytes_of_fits {bs : List Byte} (h : a + bs.length ≤ Config.memSize) :
    State.storeBytes bs a s = { s with mem := (State.storeBytes bs a s).mem } :=
  (State.storeBytes_eq bs a s).trans (if_pos (Or.inr h))

theorem State.storeBytes_of_overrun {bs : List Byte} (hf : s.fault = none) (hbs : bs ≠ [])
    (h : Config.memSize < a + bs.length) :
    State.storeBytes bs a s = { s with
      mem := (State.storeBytes bs a s).mem, fault := some .outOfBoundsAccess, contin := false, drawStrobe := false } :=
  ((State.storeBytes_eq bs a s).trans (if_neg (not_or.mpr ⟨hbs, Nat.not_le.mpr h⟩))).trans
    (State.raise_of_noFault (s := { s with mem := (State.storeBytes bs a s).mem }) hf _)

theorem State.loadRegs_of_fits {k r : Nat} (h : a + k ≤ Config.memSize) :
    State.loadRegs k r a s = { s with v := (State.loadRegs k r a s).v } :=
  (State.loadRegs_eq k r a s).trans (if_pos (Or.inr h))

theorem State.loadRegs_of_overrun {k r : Nat} (hf : s.fault = none) (hk : k ≠ 0) (h : Config.memSize < a + k) :
    State.loadRegs k r a s = { s with
      v := (State.loadRegs k r a s).v, fault := some .outOfBoundsAccess, contin := false, drawStrobe := false } :=
  ((State.loadRegs_eq k r a s).trans (if_neg (not_or.mpr ⟨hk, Nat.not_le.mpr h⟩))).trans
    (State.raise_of_noFault (s := { s with v := (State.loadRegs k r a s).v }) hf _)

end

/-! ## Stores (R153, R154) -/

section
variable (s : State) (x : Nibble)

/-- Memory after `Fx33`, wherever `I` points: the digits that lie inside `MEM`. -/
theorem State.storeDigits_readMem (b : Byte) (a : Nat) :
    (State.storeBytes (bcdDigits b) (s.ea 0) s).readMem a =
      if a = s.i.toNat ∧ a < 4096 then BitVec.ofNat 8 (b.toNat / 100)
      else if a = s.i.toNat + 1 ∧ a < 4096 then BitVec.ofNat 8 (b.toNat / 10 % 10)
      else if a = s.i.toNat + 2 ∧ a < 4096 then BitVec.ofNat 8 (b.toNat % 10)
      else s.readMem a := by
  have hlen : (bcdDigits b).length = 3 := rfl
  rw [State.storeBytes_readMem, State.ea_zero, hlen, Config.memSize]
  by_cases hin : s.i.toNat ≤ a ∧ a < s.i.toNat + 3 ∧ a < 4096
  · obtain ⟨hlo, hhi, hmem⟩ := hin
    rw [if_pos ⟨hlo, hhi, hmem⟩]
    obtain rfl | rfl | rfl : a = s.i.toNat ∨ a = s.i.toNat + 1 ∨ a = s.i.toNat + 2 := by omega
    all_goals simp [bcdDigits, hmem]
  · rw [if_neg hin, if_neg (by omega), if_neg (by omega), if_neg (by omega)]

/-- Memory after `Fx55`, wherever `I` points: the registers whose byte lies inside `MEM`. -/
theorem State.storeRegs_readMem (a : Nat) :
    (State.storeBytes (s.regsUpTo x) (s.ea 0) s).readMem a =
      if s.i.toNat ≤ a ∧ a ≤ s.i.toNat + x.toNat ∧ a < 4096 then s.getV (BitVec.ofNat 4 (a - s.i.toNat))
      else s.readMem a := by
  rw [State.storeBytes_readMem, State.ea_zero, State.regsUpTo_length, Config.memSize]
  by_cases hin : s.i.toNat ≤ a ∧ a ≤ s.i.toNat + x.toNat ∧ a < 4096
  · rw [if_pos hin, if_pos (by omega), State.regsUpTo_getD s x _ (by omega)]
  · rw [if_neg hin, if_neg (by omega)]

end

/-- Settles O45: by `State.storeDigits_readMem`; the third digit is out of range wherever the three do not fit. -/
theorem bcdStoresThreeDigits : Obligations.BcdStoresThreeDigits := by
  intro s x
  refine ⟨fun hfit => ?_, fun hf hover => ?_⟩
  · refine ⟨_, rfl, State.storeBytes_of_fits hfit, fun a => ?_⟩
    have hhundreds : a = s.i.toNat ∧ a < 4096 ↔ a = s.i.toNat := by omega
    have htens : a = s.i.toNat + 1 ∧ a < 4096 ↔ a = s.i.toNat + 1 := by omega
    have hunits : a = s.i.toNat + 2 ∧ a < 4096 ↔ a = s.i.toNat + 2 := by omega
    simp only [State.storeDigits_readMem, hhundreds, htens, hunits]
  · refine ⟨_, rfl, State.storeBytes_of_overrun hf (List.cons_ne_nil _ _) (Nat.lt_succ_of_le hover), fun a => ?_⟩
    have hthird : ¬ (a = s.i.toNat + 2 ∧ a < 4096) := by omega
    rw [State.storeDigits_readMem, if_neg hthird]

/-- Settles O46: by `State.storeRegs_readMem`, whose range ends at `I + x` or at the end of `MEM`. -/
theorem registersAreStoredFromI : Obligations.RegistersAreStoredFromI := by
  intro s x
  have hlen : s.ea 0 + (s.regsUpTo x).length = s.i.toNat + x.toNat + 1 := by
    rw [State.regsUpTo_length, State.ea_zero, Nat.add_assoc]
  refine ⟨fun hfit => ?_, fun hf hover => ?_⟩
  · refine ⟨_, rfl, State.storeBytes_of_fits (hlen ▸ hfit), fun a => ?_⟩
    have hrange : s.i.toNat ≤ a ∧ a ≤ s.i.toNat + x.toNat ∧ a < 4096 ↔ s.i.toNat ≤ a ∧ a ≤ s.i.toNat + x.toNat := by omega
    simp only [State.storeRegs_readMem, hrange]
  · have hne : s.regsUpTo x ≠ [] := List.ne_nil_of_length_pos (by simp)
    refine ⟨_, rfl, State.storeBytes_of_overrun hf hne (hlen ▸ Nat.lt_succ_of_le hover), fun a => ?_⟩
    have hrange : s.i.toNat ≤ a ∧ a ≤ s.i.toNat + x.toNat ∧ a < 4096 ↔ s.i.toNat ≤ a ∧ a < 4096 := by omega
    simp only [State.storeRegs_readMem, hrange]

/-! ## Loads (R155) -/

/-- The registers after `Fx65`, wherever `I` points: those whose byte lies inside `MEM` are loaded. -/
theorem State.loadRegsUpTo_getV (s : State) (x q : Nibble) :
    (State.loadRegs (x.toNat + 1) 0 (s.ea 0) s).getV q =
      if q.toNat ≤ x.toNat ∧ s.i.toNat + q.toNat < 4096 then s.readMem (s.i.toNat + q.toNat) else s.getV q := by
  have hx : 0 + (x.toNat + 1) ≤ 16 := by have := x.isLt; omega
  rw [State.loadRegs_getV _ _ _ _ hx, State.ea_zero, Nat.sub_zero, Config.memSize]
  by_cases hin : q.toNat ≤ x.toNat ∧ s.i.toNat + q.toNat < 4096
  · rw [if_pos hin, if_pos (by omega)]
  · rw [if_neg hin, if_neg (by omega)]

/-- Settles O47: by `State.loadRegsUpTo_getV`, whose range ends at `Vx` or at the end of `MEM`. -/
theorem registersAreLoadedFromI : Obligations.RegistersAreLoadedFromI := by
  intro s x
  refine ⟨fun hfit => ?_, fun hf hover => ?_⟩
  · refine ⟨_, rfl, State.loadRegs_of_fits hfit, fun q => ?_⟩
    have hrange : q.toNat ≤ x.toNat ∧ s.i.toNat + q.toNat < 4096 ↔ q.toNat ≤ x.toNat := by omega
    simp only [State.loadRegsUpTo_getV, hrange]
  · refine ⟨_, rfl, State.loadRegs_of_overrun hf (Nat.succ_ne_zero _) (Nat.lt_succ_of_le hover), fun q => ?_⟩
    have hrange : q.toNat ≤ x.toNat ∧ s.i.toNat + q.toNat < 4096 ↔ s.i.toNat + q.toNat < 4096 := by omega
    simp only [State.loadRegsUpTo_getV, hrange]

/-- Settles O48: the store keeps `I` (R156), so the load reads the bytes that `execLdMemVx_readMem` says it left. -/
theorem loadAfterStoreRestoresRegisters : Obligations.LoadAfterStoreRestoresRegisters := by
  intro s t u x hfit hstore hmem hcfg hi
  have hui : u.i = s.i := by
    obtain ⟨t', ht', hframe, -⟩ := (registersAreStoredFromI s x).1 hfit
    injection hstore.symm.trans ht' with htt'
    rw [hi, htt', hframe]
  obtain ⟨w, hload, -, hloaded⟩ := (registersAreLoadedFromI u x).1 (hui ▸ hfit)
  refine ⟨w, hload, fun q hq => ?_⟩
  calc w.getV q = u.readMem (s.i.toNat + q.toNat) := by rw [hloaded, if_pos hq, hui]
    _ = t.readMem (s.i.toNat + q.toNat) := State.readMem_congr hmem hcfg _
    _ = s.getV (BitVec.ofNat 4 q.toNat) := execLdMemVx_readMem hstore hfit hq
    _ = s.getV q := by rw [BitVec.ofNat_toNat, BitVec.setWidth_eq]

/-! ## Writes of `I` (R150 to R152) -/

section
variable (s : State) (x : Nibble)

theorem State.glyphAddr_toNat : (s.glyphAddr x).toNat = (s.getV x).toNat * 5 := by
  have hb := (s.getV x).isLt
  rw [State.glyphAddr, BitVec.toNat_ofNat]
  omega

theorem State.indexSum_toNat (h : s.cfg.iWidth ≤ 16) :
    (s.indexSum x).toNat = (s.i.toNat + (s.getV x).toNat) % 2 ^ s.cfg.iWidth := by
  have hlt : (s.i.toNat + (s.getV x).toNat) % 2 ^ s.cfg.iWidth < 2 ^ 16 :=
    Nat.lt_of_lt_of_le (Nat.mod_lt _ (Nat.two_pow_pos _)) (Nat.pow_le_pow_right (by decide) h)
  rw [State.indexSum, BitVec.toNat_ofNat, Nat.mod_eq_of_lt hlt]

end

/-- Settles O43: `Vx * 5` is at most 1275 and fits `I`, so nothing is reduced. -/
theorem indexLoadsWriteI : Obligations.IndexLoadsWriteI := fun s nnn x =>
  ⟨⟨_, rfl, rfl, zextAddr_toNat nnn⟩, ⟨_, rfl, rfl, s.glyphAddr_toNat x⟩⟩

/-- Settles O44: by `State.indexSum_toNat`; the sum modulo two to the power of a width up to 16 fits `I`. -/
theorem indexAddWrapsAtItsWidth : Obligations.IndexAddWrapsAtItsWidth := by
  intro s x
  refine ⟨_, rfl, rfl, s.indexSum_toNat x, fun hw => ?_⟩
  exact (s.indexSum_toNat x (Nat.le_of_eq hw)).trans (by rw [hw]; rfl)

end Sys2Proof.Machine

/-! # Display (44_display): what clearing and drawing do -/

namespace Sys2Proof.Machine

/-! ## Rows and their pixels (R172) -/

section
variable {s t : State} {r c : Nat}

theorem State.pixel_of_lt (hr : r < 32) (hc : c < 64) : s.pixel r c = s.fb[r].getLsbD (63 - c) := by
  rw [State.pixel, dif_pos hr, decide_eq_true hc, Bool.true_and]

theorem State.pixel_of_outside (h : ¬ (r < 32 ∧ c < 64)) : s.pixel r c = false := by
  by_cases hr : r < 32
  · rw [State.pixel, dif_pos hr, decide_eq_false (not_and.mp h hr), Bool.false_and]
  · rw [State.pixel, dif_neg hr]

theorem row_ext {p q : Row} (h : ∀ c < 64, p.getLsbD (63 - c) = q.getLsbD (63 - c)) : p = q := by
  refine BitVec.eq_of_getLsbD_eq fun k hk => ?_
  have hcol : 63 - (63 - k) = k := by omega
  simpa only [hcol] using h (63 - k) (by omega)

theorem row_ne_zero_iff {p : Row} : p ≠ 0#64 ↔ ∃ c < 64, p.getLsbD (63 - c) = true := by
  constructor
  · intro hne
    by_contra hdark
    refine hne (row_ext fun c hc => ?_)
    rw [BitVec.getLsbD_zero]
    exact Bool.eq_false_of_not_eq_true fun hlit => hdark ⟨c, hc, hlit⟩
  · rintro ⟨c, -, hlit⟩ rfl
    rw [BitVec.getLsbD_zero] at hlit
    exact Bool.false_ne_true hlit

/-- The pixels determine the display. -/
theorem State.fb_ext (h : ∀ r c, s.pixel r c = t.pixel r c) : s.fb = t.fb := by
  refine Vector.ext fun r hr => row_ext fun c hc => ?_
  rw [← State.pixel_of_lt hr hc, ← State.pixel_of_lt hr hc, h]

end

/-! ## The sprite row by row (R171) -/

/-- What `Dxyn` from `s` XORs onto row `r` of the display: the row's sprite byte at its columns, nothing where the sprite has
no such row or its byte lies outside `MEM` (44_display R171). -/
def State.spriteRow (s : State) (x y n : Nibble) (r : Nat) : Row :=
  if (s.getV y).toNat % 32 ≤ r ∧ r < (s.getV y).toNat % 32 + n.toNat ∧
      s.i.toNat + (r - (s.getV y).toNat % 32) ≤ 4095 then
    spriteLine (s.readMem (s.i.toNat + (r - (s.getV y).toNat % 32))) ((s.getV x).toNat % 64)
  else 0#64

section
variable (s : State) (x y n : Nibble)

theorem State.spritePixel_of_lt {r c : Nat} (hr : r < 32) (hc : c < 64) :
    s.spritePixel x y n r c = (s.spriteRow x y n r).getLsbD (63 - c) := by
  unfold State.spritePixel State.spriteRow
  split
  next hdrawn => simp [spriteLine_pixel _ _ _ hc, hdrawn, hr, hc]
  next hskipped =>
    rw [BitVec.getLsbD_zero, Bool.and_eq_false_iff, decide_eq_false_iff_not]
    exact Or.inl fun ⟨_, hlo, hhi, hmem, _⟩ => hskipped ⟨hlo, hhi, hmem⟩

theorem State.spritePixel_of_outside {r c : Nat} (h : ¬ (r < 32 ∧ c < 64)) : s.spritePixel x y n r c = false := by
  rw [State.spritePixel, Bool.and_eq_false_iff, decide_eq_false_iff_not]
  exact Or.inl fun ⟨hr, _, _, _, hc, _⟩ => h ⟨hr, hc⟩

theorem State.drawn_row {r : Nat} (hr : r < 32) : (s.drawn x y n).1[r] = s.fb[r] ^^^ s.spriteRow x y n r := by
  rw [State.drawn, drawRows_row _ _ _ _ _ _ _ _ hr, State.ea_zero]
  unfold State.spriteRow
  split
  · rfl
  · exact BitVec.xor_zero.symm

theorem State.drawn_collision_row :
    (s.drawn x y n).2 = true ↔ ∃ r, ∃ _ : r < 32, s.fb[r] &&& s.spriteRow x y n r ≠ 0#64 := by
  rw [State.drawn, drawRows_collision, State.ea_zero, or_iff_right Bool.false_ne_true]
  refine exists_congr fun r => exists_congr fun hr => ?_
  unfold State.spriteRow
  split
  next hdrawn =>
    obtain ⟨hlo, hhi, hmem⟩ := hdrawn
    exact ⟨fun ⟨_, _, _, hit⟩ => hit, fun hit => ⟨hlo, hhi, hmem, hit⟩⟩
  next hskipped =>
    exact ⟨fun ⟨hlo, hhi, hmem, _⟩ => absurd ⟨hlo, hhi, hmem⟩ hskipped, fun hit => absurd BitVec.and_zero hit⟩

/-! ## The sprite pixel by pixel -/

theorem State.pixel_of_drawn {t : State} (h : t.fb = (s.drawn x y n).1) (r c : Nat) :
    t.pixel r c = (s.pixel r c ^^ s.spritePixel x y n r c) := by
  by_cases hin : r < 32 ∧ c < 64
  · obtain ⟨hr, hc⟩ := hin
    have hrow : t.fb[r] = s.fb[r] ^^^ s.spriteRow x y n r := by simp only [h, s.drawn_row x y n hr]
    rw [State.pixel_of_lt hr hc, State.pixel_of_lt hr hc, State.spritePixel_of_lt _ _ _ _ hr hc, hrow, BitVec.getLsbD_xor]
  · rw [State.pixel_of_outside hin, State.pixel_of_outside hin, State.spritePixel_of_outside _ _ _ _ hin, Bool.xor_false]

theorem State.drawn_collision_pixel :
    (s.drawn x y n).2 = true ↔ ∃ r c, s.pixel r c = true ∧ s.spritePixel x y n r c = true := by
  rw [State.drawn_collision_row]
  constructor
  · rintro ⟨r, hr, hit⟩
    obtain ⟨c, hc, hlit⟩ := row_ne_zero_iff.mp hit
    rw [BitVec.getLsbD_and, Bool.and_eq_true] at hlit
    exact ⟨r, c, by rwa [State.pixel_of_lt hr hc, State.spritePixel_of_lt _ _ _ _ hr hc]⟩
  · rintro ⟨r, c, hlit⟩
    have hin : r < 32 ∧ c < 64 := by
      by_contra hout
      exact Bool.false_ne_true ((State.pixel_of_outside hout).symm.trans hlit.1)
    obtain ⟨hr, hc⟩ := hin
    rw [State.pixel_of_lt hr hc, State.spritePixel_of_lt _ _ _ _ hr hc, ← Bool.and_eq_true, ← BitVec.getLsbD_and] at hlit
    exact ⟨r, hr, row_ne_zero_iff.mpr ⟨c, hc, hlit⟩⟩

end

/-! ## `VF` after a draw -/

theorem flagByte_eq_one_iff {b : Bool} : flagByte b = 1#8 ↔ b = true := by
  cases b <;> decide

theorem flagByte_eq_one_or_zero (b : Bool) : flagByte b = 1#8 ∨ flagByte b = 0#8 := by
  cases b <;> decide

section
variable {s t : State} {x y n : Nibble}

theorem execDrw_frame (h : exec (.drw x y n) s = .next t) :
    t = { s with fb := (s.drawn x y n).1, v := t.v, drawStrobe := true } := by
  obtain rfl := Host.Outcome.next.inj h
  rfl

theorem execDrw_getV (h : exec (.drw x y n) s = .next t) (q : Nibble) :
    t.getV q = if q = 15#4 then flagByte (s.drawn x y n).2 else s.getV q := by
  obtain rfl := Host.Outcome.next.inj h
  exact State.setFlag_getV _ _ q

theorem execDrw_flag (h : exec (.drw x y n) s = .next t) : t.getV 15#4 = flagByte (s.drawn x y n).2 := by
  rw [execDrw_getV h, if_pos rfl]

theorem execDrw_flag_eq_one_iff (h : exec (.drw x y n) s = .next t) :
    t.getV 15#4 = 1#8 ↔ ∃ r c, s.pixel r c = true ∧ s.spritePixel x y n r c = true := by
  rw [execDrw_flag h, flagByte_eq_one_iff, State.drawn_collision_pixel]

theorem execDrw_pixel (h : exec (.drw x y n) s = .next t) (r c : Nat) :
    t.pixel r c = (s.pixel r c ^^ s.spritePixel x y n r c) :=
  s.pixel_of_drawn x y n (congrArg State.fb (execDrw_frame h)) r c

/-- A draw keeps what its sprite depends on, unless a coordinate's register is the `VF` it writes. -/
theorem execDrw_spritePixel (h : exec (.drw x y n) s = .next t) (hx : x ≠ 15#4) (hy : y ≠ 15#4) (r c : Nat) :
    t.spritePixel x y n r c = s.spritePixel x y n r c := by
  have hvx : t.getV x = s.getV x := by rw [execDrw_getV h, if_neg hx]
  have hvy : t.getV y = s.getV y := by rw [execDrw_getV h, if_neg hy]
  have hi : t.i = s.i := by rw [execDrw_frame h]
  have hmem (a : Nat) : t.readMem a = s.readMem a := by rw [execDrw_frame h]; rfl
  simp only [State.spritePixel, hvx, hvy, hi, hmem]

end

/-- Settles O50: the display becomes the vector of zero rows. -/
theorem clearZeroesEveryRow : Obligations.ClearZeroesEveryRow :=
  fun _ => ⟨_, rfl, rfl, fun _ hr => Vector.getElem_replicate hr⟩

/-- Settles O51: by `execDrw_pixel` and `execDrw_flag_eq_one_iff`. -/
theorem drawXorsTheSpriteAndReportsCollision : Obligations.DrawXorsTheSpriteAndReportsCollision := by
  intro s x y n
  obtain ⟨t, h⟩ : ∃ t, exec (.drw x y n) s = .next t := ⟨_, rfl⟩
  have hframe : t = { s with fb := t.fb, v := t.v, drawStrobe := true } := by rw [execDrw_frame h]
  have hother (q : Nibble) (hq : q ≠ 15#4) : t.getV q = s.getV q := by rw [execDrw_getV h, if_neg hq]
  have hbinary : t.getV 15#4 = 1#8 ∨ t.getV 15#4 = 0#8 := execDrw_flag h ▸ flagByte_eq_one_or_zero _
  refine ⟨t, h, hframe, execDrw_pixel h, hother, (execDrw_flag_eq_one_iff h).mpr, fun hnone => ?_⟩
  refine hbinary.resolve_left fun hone => ?_
  obtain ⟨r, c, hit⟩ := (execDrw_flag_eq_one_iff h).mp hone
  exact hnone r c hit

/-- Settles O52: both draws XOR the same sprite (`execDrw_spritePixel`), so it cancels pixel by pixel; the second collides
where the first lit a pixel. -/
theorem drawingTwiceRestoresTheDisplay : Obligations.DrawingTwiceRestoresTheDisplay := by
  intro s t x y n hx hy hfirst
  obtain ⟨u, hsecond⟩ : ∃ u, exec (.drw x y n) t = .next u := ⟨_, rfl⟩
  have hsprite := execDrw_spritePixel hfirst hx hy
  refine ⟨u, hsecond, State.fb_ext fun r c => ?_, ?_, execDrw_flag hsecond ▸ flagByte_eq_one_or_zero _⟩
  · rw [execDrw_pixel hsecond, hsprite, execDrw_pixel hfirst, Bool.xor_assoc, Bool.xor_self, Bool.xor_false]
  · rw [execDrw_flag_eq_one_iff hsecond]
    refine exists_congr fun r => exists_congr fun c => ?_
    rw [hsprite, execDrw_pixel hfirst]
    cases s.pixel r c <;> simp

end Sys2Proof.Machine

/-! # Timers and keypad (45_timers_keypad): what each instruction of the family does, and how long key-wait lasts -/

namespace Sys2Proof.Machine

/-! ## Polls without a key (R185, 40_step_cycle R94) -/

theorem run_succ_of_next {M : Host.Core} {s t : M.State} (h : M.step s = .next t) (n : Nat) : M.run (n + 1) s = M.run n t := by
  rw [Host.Core.run, h]

section
variable {s t : State}

/-- A poll without a key is the tick and the poll, and answers `continue` = 1 (40_step_cycle R94). -/
theorem step_of_keyless_poll (hf : s.fault = none) (hk : s.kwPending = true) (hkeys : s.nextInput.keys = 0#16) :
    step s = .next { s.begun with contin := true } := by
  rw [step_of_noFault hf, stepLive_of_keyWait (s := s.begun) hk, State.keyWaitStep_of_no_key (s := s.begun) hkeys]

theorem State.nextInput_of_cons {inp : StepInput} {rest : List StepInput} (h : s.inputs = inp :: rest) : s.nextInput = inp := by
  rw [State.nextInput, h]

/-- `t` is a state that `n` polls without a key lead to from `s`: only what a poll writes differs, and each of the `n` counts
both timers down. -/
def State.KeylessPolls (s : State) (n : Nat) (t : State) : Prop :=
  t = { s with
    dt := BitVec.ofNat 8 (s.dt.toNat - n), st := BitVec.ofNat 8 (s.st.toNat - n), keys := t.keys, contin := t.contin
    drawStrobe := t.drawStrobe, rndIn := t.rndIn, inputs := t.inputs, inputCount := t.inputCount }

theorem State.keylessPolls_zero (s : State) : s.KeylessPolls 0 s := by
  simp [State.KeylessPolls]

theorem State.KeylessPolls.after_poll {n : Nat} (h : State.KeylessPolls { s.begun with contin := true } n t) :
    s.KeylessPolls (n + 1) t := by
  unfold State.KeylessPolls at h ⊢
  simpa [decr_toNat, Nat.sub_sub, Nat.add_comm 1 n] using h

end

/-- Polls without a key follow one another: each begins in the key-wait that the one before it left. The answer of the
last one is `continue` = 1; with no poll at all it is the one that stood before. -/
theorem run_keyless_polls (polls rest : List StepInput) (hkeys : ∀ inp ∈ polls, inp.keys = 0#16) (s : State)
    (hf : s.fault = none) (hk : s.kwPending = true) (hinputs : s.inputs = polls ++ rest) :
    ∃ t, Host.Core.run Sys2Proof.core polls.length s = .next t ∧ s.KeylessPolls polls.length t ∧ t.inputs = rest ∧
      (s.contin = true ∨ polls ≠ [] → t.contin = true) := by
  induction polls generalizing s with
  | nil => exact ⟨s, rfl, s.keylessPolls_zero, hinputs, fun h => h.resolve_right (· rfl)⟩
  | cons inp polls ih =>
    obtain ⟨hinp, hpolls⟩ := List.forall_mem_cons.mp hkeys
    have hstep := step_of_keyless_poll hf hk (by rw [State.nextInput_of_cons hinputs, hinp])
    have htail : s.begun.inputs = polls ++ rest := by rw [State.begun_inputs, hinputs, List.cons_append, List.tail_cons]
    obtain ⟨t, hrun, hpolled, hrest, hcontin⟩ := ih hpolls { s.begun with contin := true } hf hk htail
    exact ⟨t, (run_succ_of_next hstep _).trans hrun, hpolled.after_poll, hrest, fun _ => hcontin (Or.inl rfl)⟩

/-- Settles O29: by `run_keyless_polls`, whose frame says what the polls leave unchanged. -/
theorem keyWaitLastsUntilAKeyIsDown : Obligations.KeyWaitLastsUntilAKeyIsDown := by
  intro s polls rest hf hk hinputs hkeys
  obtain ⟨t, hrun, hpolled, hrest, hcontin⟩ := run_keyless_polls polls rest hkeys s hf hk hinputs
  have htimer (b : Byte) (n : Nat) : (BitVec.ofNat 8 (b.toNat - n)).toNat = b.toNat - n := by
    have hb := b.isLt
    rw [BitVec.toNat_ofNat, Nat.mod_eq_of_lt (by omega)]
  refine ⟨t, hrun, ?_, ?_, ?_, ?_, ?_, ?_, ?_, ?_, ?_, ?_, ?_, ?_, hrest, fun h => hcontin (Or.inr h)⟩ <;> rw [hpolled]
  · exact hk
  · exact hf
  · exact htimer s.dt polls.length
  · exact htimer s.st polls.length

/-! ## The timers (R181, R182) -/

/-- Settles O53: each of the two is the write of its timer. -/
theorem timersAreSetFromVx : Obligations.TimersAreSetFromVx := fun _ _ => ⟨rfl, rfl⟩

/-! ## The key that `Vx` names (R183, R184) -/

section
variable {s : State} {x : Nibble}

theorem State.keyIndex_of_named (h : (s.getV x).toNat ≤ 15 ∨ s.cfg.keyIndexOor = .mask4) :
    s.keyIndex x = some ((s.getV x).toNat % 16) := by
  unfold State.keyIndex
  split
  next hle => rw [Nat.mod_eq_of_lt (by omega)]
  next hgt => rw [h.resolve_left hgt]

theorem State.keyIndex_of_not_named (hgt : 15 < (s.getV x).toNat) (hcfg : s.cfg.keyIndexOor = .fault) :
    s.keyIndex x = none := by
  rw [State.keyIndex, if_neg (Nat.not_le.mpr hgt), hcfg]

end

/-- Settles O54: where `Vx` names a key, each of the two is the skip on that key's bit or its negation; where it names none,
each raises. -/
theorem keySkipsTestTheNamedKey : Obligations.KeySkipsTestTheNamedKey := by
  refine fun s x => ⟨fun hnamed => ?_, fun hf hgt hcfg => ?_⟩
  · have hkey := State.keyIndex_of_named hnamed
    exact ⟨skipsWhen_of_skipIf (execSkp_of_key hkey) Iff.rfl,
      skipsWhen_of_skipIf (execSknp_of_key hkey) (by rw [Bool.not_eq_true'])⟩
  · have hkey := State.keyIndex_of_not_named hgt hcfg
    exact ⟨raisesAtOnce_of_raise hf (execSkp_of_no_key hkey), raisesAtOnce_of_raise hf (execSknp_of_no_key hkey)⟩

/-! ## Entering key-wait (R185) -/

/-- Settles O55: the next step begins in key-wait, so `keyWaitStepSuspendsExecution` says what it does. -/
theorem waitForKeyEntersTheWait : Obligations.WaitForKeyEntersTheWait := by
  refine fun s x => ⟨s.enterKeyWait x, rfl, rfl, fun hf u hstep => ?_⟩
  obtain ⟨t, hpoll, hcontin, hpc, -, -⟩ := keyWaitStepSuspendsExecution (s.enterKeyWait x).finish hf rfl
  obtain rfl : t = u := by injection hpoll.symm.trans hstep
  exact ⟨hpc, hcontin⟩

end Sys2Proof.Machine

/-! # Faults (60_exceptions): the cause of each, and the faulted state -/

namespace Sys2Proof.Machine

/-- The fault that `i` raises where none is latched, by the causes of 60_exceptions R202. -/
def State.faultOf (s : State) : Instr → Option FaultCode
  | .ret => if s.sp = 0 then some .stackUnderflow else none
  | .call _ => if s.cfg.stackDepth ≤ s.sp then some .stackOverflow else none
  | .ldB _ => if 4096 ≤ s.i.toNat + 2 then some .outOfBoundsAccess else none
  | .ldMemVx x | .ldVxMem x => if 4096 ≤ s.i.toNat + x.toNat then some .outOfBoundsAccess else none
  | .skp x | .sknp x => if 15 < (s.getV x).toNat ∧ s.cfg.keyIndexOor = .fault then some .outOfBoundsAccess else none
  | .reserved8 _ _ _ => some .unsupportedOpcode
  | .reservedE _ _ | .reservedF _ _ => if s.cfg.reservedEf = .fault then some .unsupportedOpcode else none
  | _ => none

/-! ## Shared operations -/

section
variable (s : State)

theorem State.skipIf_fault (b : Bool) : (s.skipIf b).fault = s.fault :=
  (congrArg State.fault (s.skipIf_eq b) :)

theorem State.writeResultFlag_fault (x : Nibble) (r f : Byte) : (s.writeResultFlag x r f).fault = s.fault :=
  (congrArg State.fault (s.writeResultFlag_eq x r f) :)

variable {s} (hf : s.fault = none)
include hf

theorem State.raise_fault_of_noFault (f : FaultCode) : (s.raise f).fault = some f := by
  rw [State.raise_of_noFault hf]

theorem State.popAndJump_fault : s.popAndJump.fault = if s.sp = 0 then some .stackUnderflow else none := by
  rcases s.stack.eq_nil_or_concat' with hnil | ⟨older, w, hstack⟩
  · rw [State.popAndJump_of_empty hnil, State.raise_fault_of_noFault hf, State.sp, hnil]
    rfl
  · rw [State.popAndJump_of_append hstack, State.sp, hstack, if_neg (by simp)]
    exact hf

theorem State.pushAndJump_fault (ret target : Word) :
    (s.pushAndJump ret target).fault = if s.cfg.stackDepth ≤ s.sp then some .stackOverflow else none := by
  by_cases hfull : s.cfg.stackDepth ≤ s.sp
  · rw [State.pushAndJump_of_full hfull, State.raise_fault_of_noFault hf, if_pos hfull]
  · rw [State.pushAndJump_of_lt (Nat.lt_of_not_le hfull), if_neg hfull]
    exact hf

/-- A store of `k + 1` bytes faults exactly where the last one lies outside `MEM`. -/
theorem State.storeBytes_fault {bs : List Byte} {k : Nat} (hlen : bs.length = k + 1) (a : Nat) :
    (State.storeBytes bs a s).fault = if 4096 ≤ a + k then some .outOfBoundsAccess else none := by
  have hlast : a + bs.length = a + k + 1 := by rw [hlen, Nat.add_assoc]
  by_cases hover : 4096 ≤ a + k
  · have hne : bs ≠ [] := List.ne_nil_of_length_eq_add_one hlen
    rw [State.storeBytes_of_overrun hf hne (hlast ▸ Nat.lt_succ_of_le hover), if_pos hover]
  · rw [State.storeBytes_of_fits (hlast ▸ Nat.lt_of_not_le hover), if_neg hover]
    exact hf

/-- A load of `k + 1` registers faults exactly where the last byte lies outside `MEM`. -/
theorem State.loadRegs_fault (k r a : Nat) :
    (State.loadRegs (k + 1) r a s).fault = if 4096 ≤ a + k then some .outOfBoundsAccess else none := by
  by_cases hover : 4096 ≤ a + k
  · rw [State.loadRegs_of_overrun hf (Nat.succ_ne_zero k) (Nat.lt_succ_of_le hover), if_pos hover]
  · rw [State.loadRegs_of_fits (Nat.lt_of_not_le hover), if_neg hover]
    exact hf

theorem State.undefinedEF_fault :
    s.undefinedEF.fault = if s.cfg.reservedEf = .fault then some .unsupportedOpcode else none := by
  cases hcfg : s.cfg.reservedEf with
  | fault => rw [State.undefinedEF_of_fault hcfg, State.raise_fault_of_noFault hf]; rfl
  | nop => rw [State.undefinedEF_of_nop hcfg, hf]; rfl

end

/-! ## Instructions -/

section
variable {s : State}

/-- `Vx` names no key exactly when it is above 15 and `KEY_INDEX_OOR` does not mask it (45_timers_keypad R183). -/
theorem State.keyIndex_eq_none_iff (x : Nibble) :
    s.keyIndex x = none ↔ 15 < (s.getV x).toNat ∧ s.cfg.keyIndexOor = .fault := by
  refine ⟨fun hkey => ?_, fun ⟨hgt, hcfg⟩ => State.keyIndex_of_not_named hgt hcfg⟩
  have hnamed : ¬ ((s.getV x).toNat ≤ 15 ∨ s.cfg.keyIndexOor = .mask4) := fun h => by
    simp [State.keyIndex_of_named h] at hkey
  obtain ⟨hgt, hmask⟩ := not_or.mp hnamed
  refine ⟨Nat.lt_of_not_le hgt, ?_⟩
  cases hcfg : s.cfg.keyIndexOor with
  | fault => rfl
  | mask4 => exact absurd hcfg hmask

/-- `i` answers a next state, which holds the fault that its row of R202 names. -/
def FaultsByItsRow (i : Instr) (s : State) : Prop := ∃ t, exec i s = .next t ∧ t.fault = s.faultOf i

/-- A key skip faults exactly where `Vx` names no key. -/
theorem faultsByItsRow_of_keySkip {i : Instr} {x : Nibble} {skips : Nat → Bool} (hf : s.fault = none)
    (hrow : s.faultOf i = if 15 < (s.getV x).toNat ∧ s.cfg.keyIndexOor = .fault then some .outOfBoundsAccess else none)
    (hnone : s.keyIndex x = none → exec i s = .next (s.raise .outOfBoundsAccess))
    (hkey : ∀ k, s.keyIndex x = some k → exec i s = .next (s.skipIf (skips k))) : FaultsByItsRow i s := by
  simp only [FaultsByItsRow, hrow, ← State.keyIndex_eq_none_iff]
  cases h : s.keyIndex x with
  | none => exact ⟨_, hnone h, State.raise_fault_of_noFault hf _⟩
  | some k => exact ⟨_, hkey k h, (State.skipIf_fault s _).trans hf⟩

theorem subn_faults_by_its_row (hf : s.fault = none) (x y : Nibble) : FaultsByItsRow (.subn x y) s := by
  cases hcfg : s.cfg.subnVf with
  | unchanged => exact ⟨_, execSubn_of_unchanged hcfg x y, hf⟩
  | notBorrow => exact ⟨_, execSubn_of_notBorrow hcfg x y, (State.writeResultFlag_fault s _ _ _).trans hf⟩

/-- Every instruction raises the fault of its row of R202, and no other. -/
theorem exec_faults_by_its_row (hf : s.fault = none) (i : Instr) : FaultsByItsRow i s := by
  cases i with
  | cls | jp0 | jpV0 | ldImm | addImm | ldReg | or | and | xor | shr | shl | rnd | ldVxDt | ldI | addI | ldF | drw | ldVxK
  | ldDtVx | ldStVx => exact ⟨_, rfl, hf⟩
  | jp nnn => exact ⟨_, execJp_eq nnn s, hf⟩
  | seImm | sneImm | seReg | sneReg => exact ⟨_, rfl, (State.skipIf_fault s _).trans hf⟩
  | addReg | sub => exact ⟨_, rfl, (State.writeResultFlag_fault s _ _ _).trans hf⟩
  | subn x y => exact subn_faults_by_its_row hf x y
  | ret => exact ⟨_, rfl, State.popAndJump_fault hf⟩
  | call nnn => exact ⟨_, rfl, State.pushAndJump_fault hf s.pc (zextAddr nnn)⟩
  | skp x => exact faultsByItsRow_of_keySkip hf rfl execSkp_of_no_key fun _ => execSkp_of_key
  | sknp x => exact faultsByItsRow_of_keySkip hf rfl execSknp_of_no_key fun _ => execSknp_of_key
  | ldB x => exact ⟨_, rfl, State.storeBytes_fault hf rfl (s.ea 0)⟩
  | ldMemVx x => exact ⟨_, rfl, State.storeBytes_fault hf (s.regsUpTo_length x) (s.ea 0)⟩
  | ldVxMem x => exact ⟨_, rfl, State.loadRegs_fault hf x.toNat 0 (s.ea 0)⟩
  | reserved8 => exact ⟨_, rfl, State.raise_fault_of_noFault hf _⟩
  | reservedE | reservedF => exact ⟨_, rfl, State.undefinedEF_fault hf⟩

/-! ## The rows of R202 by code

The instruction's constructor names its row, and no other row raises the code. -/

variable {i : Instr}

theorem State.faultOf_eq_outOfBoundsAccess :
    s.faultOf i = some .outOfBoundsAccess ↔
      (∃ x, i = .ldB x ∧ 4096 ≤ s.i.toNat + 2) ∨ (∃ x, i = .ldMemVx x ∧ 4096 ≤ s.i.toNat + x.toNat) ∨
      (∃ x, i = .ldVxMem x ∧ 4096 ≤ s.i.toNat + x.toNat) ∨
      ∃ x, (i = .skp x ∨ i = .sknp x) ∧ 15 < (s.getV x).toNat ∧ s.cfg.keyIndexOor = .fault := by
  cases i <;> simp [State.faultOf]

theorem State.faultOf_eq_unsupportedOpcode :
    s.faultOf i = some .unsupportedOpcode ↔
      (∃ x y n, i = .reserved8 x y n) ∨
      ∃ x kk, (i = .reservedE x kk ∨ i = .reservedF x kk) ∧ s.cfg.reservedEf = .fault := by
  cases i <;> simp [State.faultOf]

theorem State.faultOf_eq_stackUnderflow : s.faultOf i = some .stackUnderflow ↔ i = .ret ∧ s.sp = 0 := by
  cases i <;> simp [State.faultOf]

theorem State.faultOf_eq_stackOverflow :
    s.faultOf i = some .stackOverflow ↔ (∃ nnn, i = .call nnn) ∧ s.cfg.stackDepth ≤ s.sp := by
  cases i <;> simp [State.faultOf]

end

/-! ## Steps -/

/-- For `FAULT` a live step is a poll in key-wait, a fetch outside memory, or an instruction, which faults by its row. -/
theorem step_fault_cases {s t : State} (hf : s.fault = none) (h : step s = .next t) :
    (s.nextInstr = none ∧ s.kwPending = true ∧ t.fault = none) ∨
    (s.nextInstr = none ∧ s.kwPending = false ∧ 4095 ≤ s.pc.toNat ∧ t.fault = some .outOfBoundsAccess) ∨
    ∃ i, s.nextInstr = some i ∧ s.pc.toNat < 4095 ∧ t.fault = s.faultOf i := by
  obtain ⟨hne, -⟩ | ⟨-, hk, rfl⟩ | ⟨-, hk, hpc, rfl⟩ | ⟨i, u, -, -, hpc, hi, hu, rfl⟩ := step_cases h
  · exact absurd hf hne
  · rw [State.keyWaitStep_eq]
    exact Or.inl ⟨if_neg fun hn => by simp [hk] at hn, hk, hf⟩
  · exact Or.inr (Or.inl ⟨if_neg fun hn => by omega, hk, hpc, State.raise_fault_of_noFault (s := s.begun) hf _⟩)
  · obtain ⟨v, hv, hfault⟩ := exec_faults_by_its_row (s := s.begun.advance) hf i
    obtain rfl : v = u := by injection hv.symm.trans hu
    exact Or.inr (Or.inr ⟨i, hi, hpc, hfault⟩)

/-- Settles O17: by `step_fault_cases`, with the rows of the executed instruction read off by code. -/
theorem faultsHaveExactlyTheListedCauses : Obligations.FaultsHaveExactlyTheListedCauses := by
  intro s t hf h
  obtain ⟨hi, hk, ht⟩ | ⟨hi, hk, hpc, ht⟩ | ⟨i, hi, hpc, ht⟩ := step_fault_cases hf h
  · simp [hi, hk, ht]
  · simp [hi, hk, hpc, ht]
  · have hfetched : ¬ (s.kwPending = false ∧ 4095 ≤ s.pc.toNat) := by omega
    simp only [hi, Option.some.injEq, ht, hfetched, false_or]
    exact ⟨State.faultOf_eq_outOfBoundsAccess, State.faultOf_eq_unsupportedOpcode, State.faultOf_eq_stackUnderflow,
      State.faultOf_eq_stackOverflow⟩

/-! ## The faulted state (60_exceptions R204) -/

/-- A `Load` that is not refused leaves the reset state with the image in memory and the host's samples kept
(70_reset_and_hazards R230). -/
theorem load_next {s t : State} {image : List Byte} (h : s.load image = .next t) :
    t = { State.init s.cfg with
      mem := Memory.storeImage s.cfg image Config.progBase [], inputs := s.inputs, inputCount := s.inputCount } := by
  unfold State.load at h
  split at h
  · injection h with h
    exact h.symm
  · nomatch h

/-- Settles O9: a step of a faulted state is `State.frozen`, a stop request before it sets `STOP` alone, and `Load` resets
`FAULT`. -/
theorem faultedMachineIsFrozen : Obligations.FaultedMachineIsFrozen := by
  intro s c hc
  have hf : s.fault ≠ none := Option.ne_none_iff_exists'.mpr ⟨c, hc⟩
  refine ⟨⟨_, step_of_fault hf, rfl, fun _ => rfl⟩, ⟨_, step_of_fault (s := s.requestStop) hf, hc, rfl⟩,
    fun image t hload => ?_⟩
  rw [load_next hload]
  rfl

end Sys2Proof.Machine

/-! # `Load` (70_reset_and_hazards R230, R231): what it leaves in each element, and when it is refused -/

namespace Sys2Proof.Machine

section
variable {s : State} {image : List Byte}

/-- What an accepted `Load` leaves (`State.load_of_le`). -/
def State.loaded (image : List Byte) (s : State) : State :=
  { State.init s.cfg with
    mem := Memory.storeImage s.cfg image Config.progBase [], inputs := s.inputs, inputCount := s.inputCount }

theorem State.load_of_le (h : image.length ≤ 3584) : s.load image = .next (s.loaded image) := if_pos h

theorem State.load_of_gt (h : 3584 < image.length) : s.load image = .refused .romLoadError := if_neg (Nat.not_le.mpr h)

theorem State.loaded_getV (q : Nibble) : (s.loaded image).getV q = 0#8 := Vector.getElem_replicate q.isLt

/-! The bytes of memory after a `Load`: the image where it lies, the font below 80, zero everywhere else. -/

theorem State.loaded_readMem (a : Nat) :
    (s.loaded image).readMem a =
      if 512 ≤ a ∧ a < 512 + image.length then image.getD (a - 512) 0 else initByte s.cfg a :=
  Memory.read_storeImage s.cfg image 512 [] a

theorem State.loaded_readMem_image {j : Nat} (h : j < image.length) : (s.loaded image).readMem (512 + j) = image[j] := by
  have hin : 512 ≤ 512 + j ∧ 512 + j < 512 + image.length := by omega
  rw [State.loaded_readMem, if_pos hin, Nat.add_sub_cancel_left, List.getD_eq_getElem _ _ h]

theorem State.loaded_readMem_outside {a : Nat} (h : a < 512 ∨ 512 + image.length ≤ a) :
    (s.loaded image).readMem a = initByte s.cfg a := by
  have hout : ¬ (512 ≤ a ∧ a < 512 + image.length) := by omega
  rw [State.loaded_readMem, if_neg hout]

theorem State.loaded_readMem_font {a : Nat} (h : a < 80) : (s.loaded image).readMem a = s.cfg.font[a] :=
  (State.loaded_readMem_outside (Or.inl (by omega))).trans (dif_pos h)

theorem State.loaded_readMem_zero {a : Nat} (hfont : 80 ≤ a) (h : a < 512 ∨ 512 + image.length ≤ a) :
    (s.loaded image).readMem a = 0#8 :=
  (State.loaded_readMem_outside h).trans (dif_neg (Nat.not_lt.mpr hfont))

end

/-- Settles O23: memory by the lemmas on its three regions; every other element is the one of `State.init`. -/
theorem loadSetsEveryElement : Obligations.LoadSetsEveryElement := by
  intro s image hlen
  refine ⟨s.loaded image, State.load_of_le hlen, ?font, ?image, ?zero, State.loaded_getV,
    rfl, rfl, rfl, rfl, rfl, rfl, rfl, rfl, rfl, rfl, ?fb⟩
  case font => exact fun _ h => State.loaded_readMem_font h
  case image => exact fun _ h => State.loaded_readMem_image h
  case zero => exact fun _ hfont h => State.loaded_readMem_zero hfont h
  case fb => exact fun _ h => Vector.getElem_replicate h

/-- Settles O24: the other branch of `Load`. -/
theorem oversizeImageIsRefused : Obligations.OversizeImageIsRefused := fun _ _ h => State.load_of_gt h

/-- Settles O25: an empty image stores nothing, and the hypotheses give the fields that `Load` takes from the state before. -/
theorem resetIsTheLoadOfAnEmptyImage : Obligations.ResetIsTheLoadOfAnEmptyImage := by
  intro s hcfg hinputs hcount
  have hloaded : s.loaded [] = State.reset := by
    rw [State.loaded, hcfg, hinputs, hcount]
    rfl
  rw [State.load_of_le (Nat.zero_le _), hloaded]

end Sys2Proof.Machine
